-- ==== Sys2Proof/Word.lean ====
section
/-! DEFINITION. The word types of the block: bytes, pixel indices, port words. A
duty-cycle code, an element of the Transfer Buffer, is a count value below `2 ^ CODE_WIDTH` (00_scope.md R8,
10_state.md R25); the spec never shifts or masks one, so it is a `Nat`, and its bound is part of the
invariant of the machine (DESIGN CHOICE, log entry 28: safe). -/

namespace Sys2Proof

/-- One channel byte, 8 bits unsigned (10_state.md R21, 30_encoding.md R84). -/
abbrev Byte := BitVec 8

/-- The `index` operand, `INDEX_WIDTH = 16` bits unsigned (00_scope.md R8, 30_encoding.md R81). -/
abbrev Index := BitVec 16

/-- One command word `W` of the command port, format CMD48 (30_encoding.md R81). -/
abbrev CommandWord := BitVec 48

/-- One event word `E` of the event port, format EVT1 (30_encoding.md R83). -/
abbrev EventWord := BitVec 1

end Sys2Proof
end

