-- ==== Sys2Proof/Config.lean ====
section
/-! DEFINITION. What is fixed at construction of an instance (00_scope.md R8, R9), and the free values:
constants with no body for what the spec leaves open. -/

namespace Sys2Proof

/-- `ORDER`: the wire order of the three colour channels (20_memory.md R53). -/
inductive WireOrder where
  | grb
  | rgb
  deriving DecidableEq, Repr

/-- The parameters of 00_scope.md R8, "resolved once at construction" and immutable afterwards. -/
structure Config where
  /-- `N`, the number of pixels in the chain. -/
  pixelCount : Nat
  /-- `C`, the channel bytes of one pixel: 3 (RGB family) or 4 (RGBW family). -/
  channels : Nat
  /-- `ORDER`. -/
  order : WireOrder
  /-- `GAMMA_EN`. -/
  gamma : Bool
  /-- `RELOAD_COUNT`, the pulse period in timer ticks. -/
  reloadCount : Nat
  /-- `HIGH_CODE`, the code of a logical 1. -/
  highCode : Nat
  /-- `LOW_CODE`, the code of a logical 0. -/
  lowCode : Nat
  /-- `CODE_WIDTH`, the bits of one element of the Transfer Buffer. -/
  codeWidth : Nat
  deriving DecidableEq, Repr

/-- `HALF = C * 8`, the number of codes of one half of the Transfer Buffer (00_scope.md R8). -/
def Config.half (c : Config) : Nat := c.channels * 8

/-- `L = C * 8 * 2`, the number of codes of the Transfer Buffer (00_scope.md R8). -/
def Config.bufferLength (c : Config) : Nat := c.channels * 8 * 2

/-- `N * C`, the number of bytes of the Colour Buffer (10_state.md R21). -/
def Config.colourBytes (c : Config) : Nat := c.pixelCount * c.channels

/-- `BR_RESET`, a free value: the Global Brightness after reset (10_state.md R37, decision D6).
DESIGN CHOICE, log entry 2: safe, no proof can see the value. -/
opaque Config.brReset : Byte

/-- `CB_RESET`, a free value for each byte of the Colour Buffer: what it holds after reset
(10_state.md R24, decision D7). DESIGN CHOICE, log entry 3: safe. -/
opaque Config.cbReset : Nat → Byte

/-- `TB_RESET`, a free value for each code of the Transfer Buffer (10_state.md R28, decision D7).
DESIGN CHOICE, log entry 4: safe. -/
opaque Config.tbReset : Nat → Nat

/-- A free value: what the Transfer Engine answers to a call of `te_start` for which State lists no
answer of the environment (43_serializer.md R181, decision D24). DESIGN CHOICE, log entry 6: safe. -/
opaque Config.teStartOk : Nat → Bool

/-- A free value: which of the values a raced byte has held a callback fetches, for the fetch of that
number and the byte at that address (20_memory.md R63, 93_implementation_defined.md U1). DESIGN CHOICE,
log entry 9: safe. -/
opaque Config.raceChoice : Nat → Nat → Nat

end Sys2Proof
end

