-- ==== Sys2Proof/Syntax.lean ====
section
/-! DEFINITION. The instructions of the block: one constructor per row of spec/opcode_table.json (the
operations of the command port, 30_encoding.md R82, and the events of the event port, R83). -/

namespace Sys2Proof

/-- An operation of the command port or an event of the event port (00_scope.md R6). -/
inductive Instr where
  /-- INIT, `init()` (42_streaming_engine.md R150). -/
  | init
  /-- CLEAR, `clear()` (40_color_pipeline.md R125). -/
  | clear
  /-- SET_BRIGHTNESS, `setBrightness(brightness)` (R110). -/
  | setBrightness (brightness : Byte)
  /-- SET_PIXEL_RGB, `setPixelRGB(index, r, g, b)` (R113). -/
  | setPixelRgb (index : Index) (r g b : Byte)
  /-- SET_PIXEL_HSV, `setPixelHSV(index, hue, sat, val)` (R117). -/
  | setPixelHsv (index : Index) (hue sat val : Byte)
  /-- SET_PIXEL_WHITE, `setPixelWhite(index, w)` (R119). -/
  | setPixelWhite (index : Index) (w : Byte)
  /-- FILL_RGB, `fillRGB(r, g, b)` (R121). -/
  | fillRgb (r g b : Byte)
  /-- FILL_HSV, `fillHSV(hue, sat, val)` (R122). -/
  | fillHsv (hue sat val : Byte)
  /-- FILL_WHITE, `fillWhite(w)` (R123). -/
  | fillWhite (w : Byte)
  /-- SHOW, `show()`, whose other name in the source is `trigger()` (42_streaming_engine.md R151,
  30_encoding.md R93; `show` is a word of Lean's own, so the constructor takes the other name). -/
  | trigger
  /-- IS_READY, `isReady()` (R160). -/
  | isReady
  /-- EV_HALF, `onHalfConsumed()` (R154). -/
  | evHalf
  /-- EV_FULL, `onFullConsumed()` (R156). -/
  | evFull
  deriving DecidableEq, Repr

/-- What one port transaction presents to the block (30_encoding.md R80): a command word of the command
port or an event word of the event port. -/
inductive PortWord where
  | command (w : CommandWord)
  | event (e : EventWord)
  deriving DecidableEq, Repr

end Sys2Proof
end

