-- ==== Sys2Proof/WellFormed.lean ====
section
/-! DEFINITION. The checks: which configurations are legal (00_scope.md R8, R9), and which instructions a
configuration supports (30_encoding.md R90). Operands need no range check: an 8-bit or 16-bit field cannot
be out of range (30_encoding.md R84). -/

namespace Sys2Proof

/-- A legal configuration: `N >= 2`, `C` in {3, 4}, `0 < LOW_CODE < HIGH_CODE < RELOAD_COUNT` and
`RELOAD_COUNT <= 2 ^ CODE_WIDTH` (00_scope.md R8, R9, decisions D4, D30; log entry 13). -/
def Config.legal (c : Config) : Bool :=
  decide (2 ≤ c.pixelCount) && (decide (c.channels = 3) || decide (c.channels = 4)) &&
    decide (0 < c.lowCode) && decide (c.lowCode < c.highCode) &&
    decide (c.highCode < c.reloadCount) && decide (c.reloadCount ≤ 2 ^ c.codeWidth)

/-- A configuration together with the proof that it is legal. An illegal configuration has no meaning
(00_scope.md R9), so no state holds one. -/
structure Setup extends Config where
  legal : toConfig.legal = true
  deriving DecidableEq, Repr

/-- The instructions a configuration supports: a white-channel operation is the one operation-level
illegal form, on a 3-channel configuration (30_encoding.md R90); it is executed there too, and answers
`ParamError`. -/
def Instr.supported (c : Config) : Instr → Bool
  | .setPixelWhite _ _ => decide (c.channels = 4)
  | .fillWhite _ => decide (c.channels = 4)
  | .init => true
  | .clear => true
  | .setBrightness _ => true
  | .setPixelRgb _ _ _ _ => true
  | .setPixelHsv _ _ _ _ => true
  | .fillRgb _ _ _ => true
  | .fillHsv _ _ _ => true
  | .trigger => true
  | .isReady => true
  | .evHalf => true
  | .evFull => true

end Sys2Proof
end

