-- ==== Sys2Proof/Machine/State.lean ====
section
/-! DEFINITION. The state of the machine as plain data (10_state.md R20, R40, R41), the reasons it can
stop, and the state after reset (10_state.md R42). -/

namespace Sys2Proof.Machine

/-- `ES`, the Engine State (10_state.md R33). -/
inductive EngineState where
  | ready
  | busy
  deriving DecidableEq, Repr

/-- The status results of the command port that are not an engine state (10_state.md R35,
60_exceptions.md R200). -/
inductive Status where
  | ok
  | busy
  | paramError
  | transferStartError
  deriving DecidableEq, Repr

/-- What a command-port transaction returns: a status, or for `isReady` the engine state itself
(10_state.md R35). -/
inductive Reply where
  | status (r : Status)
  | engine (e : EngineState)
  deriving DecidableEq, Repr

/-- What the world outside does next (00_scope.md R7, R12): the caller presents a command word, or one
pulse period passes before the caller's next operation. A list of these holds one interleaving of the
caller with the Transfer Engine. Log entry 7. -/
inductive Input where
  | command (w : CommandWord)
  | pulse
  deriving DecidableEq, Repr

/-- One half of the Transfer Buffer (10_state.md R25). -/
inductive Half where
  | first
  | second
  deriving DecidableEq, Repr

/-- The colour bytes that have been written since reset: (address, byte) pairs, addresses strictly
rising. An unlisted address holds no written byte. -/
abbrev Memory := List Host.Cell

/-- The canonical form: addresses strictly rising. An unlisted address reads as no written byte, so no
listed entry can equal what an unlisted one reads as. -/
abbrev Memory.wf (m : Memory) : Prop := m.Pairwise (fun x y => x.1 < y.1)

/-- The whole state: the architectural state `(CB, TB, PC, ES, BR)` (10_state.md R20), the Transfer
Engine's state (R40), the ghost history (R41), the ports, the configuration, and the model's own fields
for what the environment decides. -/
structure State where
  /-- The construction-time constants (00_scope.md R8); no step changes them (10_state.md R38). -/
  cfg : Setup
  /-- `CB`, the Colour Buffer (10_state.md R21). -/
  cb : Memory
  /-- `TB`, the Transfer Buffer: `L` codes, half 0 then half 1 (10_state.md R25). -/
  tb : List Nat
  /-- `PC`, the Progress Cursor (10_state.md R29, R30). -/
  pc : Nat
  /-- `ES`, the Engine State (10_state.md R33). -/
  es : EngineState
  /-- `BR`, the Global Brightness (10_state.md R36). -/
  br : Byte
  /-- `TE.running`: the Transfer Engine runs and the two callbacks are registered (10_state.md R40). -/
  teRunning : Bool
  /-- `TE.pos`: the index of the code the Transfer Engine emits next (10_state.md R40). -/
  tePos : Nat
  /-- The event port: an event raised by the last emission and not yet delivered (43_serializer.md
  R185). -/
  event : Option EventWord
  /-- `WIRE`: every code emitted since reset, oldest first (10_state.md R41). -/
  wire : List Nat
  /-- The command port's last answer to the caller (10_state.md R35). Log entry 23. -/
  reply : Option Reply
  /-- What the world outside does next, oldest first. Log entry 7. -/
  inputs : List Input
  /-- The Transfer Engine's answers to the coming calls of `te_start`, oldest first: an input drawn by
  the environment (43_serializer.md R181). Log entry 6. -/
  startAnswers : List Bool
  /-- For each byte of `CB` written during the transfer in flight, the value it held before that write,
  latest write first (20_memory.md R63). Log entry 9. -/
  raced : List Host.Cell
  /-- The number of free values taken so far. Log entry 9. -/
  draws : Nat
  deriving DecidableEq, Repr

/-- Why the machine stops with a fault. -/
inductive Fault where
  /-- Raised by an emission (`emit`) whose `TE.pos` is no index of `TB` (00_scope.md R11 and
  43_serializer.md R185 have `0 <= TE.pos < L`). Safe: the machine stops, and no state a run reaches
  raises it. DEDUCED, log entry 5. -/
  | codeIndexOutOfRange
  deriving DecidableEq, Repr

/-- Why the machine gives a step no meaning. -/
inductive Refusal where
  /-- Raised by `exec` for an instruction without a meaning in the model. Safe: the machine stops. -/
  | notModelled (mnemonic : String)
  /-- Raised by `step` for a command word whose selector is in `0x0B..0xFF` (30_encoding.md R89). Safe:
  the spec defines no behaviour for it. -/
  | reservedSelector
  /-- Raised by `step` for a command word with a non-zero unused field (30_encoding.md R89). Safe: the
  spec defines no behaviour for it. -/
  | unusedFieldNotZero
  /-- Raised by EV_HALF and EV_FULL when no transfer is in flight (60_exceptions.md R211, decision D16).
  Safe in the reference serializer, which raises no such event; unsafe for a Transfer Engine that raises
  an event late (93_implementation_defined.md U9). -/
  | eventOutsideTransfer
  /-- Raised by INIT while `ES = BUSY` (42_streaming_engine.md R150, decision D13). Safe: the spec
  defines no behaviour for it. -/
  | initWhileBusy
  /-- Raised by `construct` for a configuration that 00_scope.md R8 and R9 do not allow (decisions D4,
  D30). Safe: the spec gives such a configuration no meaning. -/
  | illegalConfiguration
  deriving DecidableEq, Repr

/-- The state after the creation of an instance with a legal configuration (10_state.md R42,
70_reset_and_hazards.md R230): `ES = READY`, `PC = 0`, the Transfer Engine idle, `WIRE` empty; `BR`, `CB`
and `TB` hold the free reset values (log entries 2, 3, 4). -/
def State.created (c : Setup) : State where
  cfg := c
  cb := []
  tb := (List.range c.bufferLength).map fun k => Config.tbReset k % 2 ^ c.codeWidth
  pc := 0
  es := .ready
  br := Config.brReset
  teRunning := false
  tePos := 0
  event := none
  wire := []
  reply := none
  inputs := []
  startAnswers := []
  raced := []
  draws := 0

/-- The configuration `State.reset` is created with: the spec's own example values (95_test_vectors.md
P1 and V39). DESIGN CHOICE, log entry 1. -/
def State.resetSetup : Setup where
  pixelCount := 3
  channels := 3
  order := .grb
  gamma := false
  reloadCount := 100
  highCode := 56
  lowCode := 28
  codeWidth := 16
  legal := by decide

/-- The machine right after reset: `State.created` with the configuration of log entry 1. -/
def State.reset : State := State.created State.resetSetup

end Sys2Proof.Machine
end

