-- ==== Sys2Proof/Machine/Memory.lean ====
section
/-! DEFINITION. The named operations of the Colour Buffer's storage: one byte read and one byte written,
in the canonical form of `Memory.wf`. -/

namespace Sys2Proof.Machine

/-- The written byte at an address, if any. -/
def Memory.read : Memory → Nat → Option Byte
  | [], _ => none
  | (a, v) :: m, k => if a = k then some v else Memory.read m k

/-- Write one byte; addresses stay strictly rising. -/
def Memory.write : Memory → Nat → Byte → Memory
  | [], k, v => [(k, v)]
  | (a, u) :: m, k, v =>
    if k < a then (k, v) :: (a, u) :: m
    else if k = a then (k, v) :: m
    else (a, u) :: Memory.write m k v

end Sys2Proof.Machine
end

