-- ==== Sys2Proof/Machine/Operands.lean ====
section
/-! DEFINITION. Operand forms: the pixel an index names (20_memory.md R56, 30_encoding.md R84), the places
of the channels in a record (R50, R53) and of the codes in the Transfer Buffer (R51). -/

namespace Sys2Proof.Machine

/-- `i = index mod N`: an out-of-range index wraps and never faults (20_memory.md R56). -/
def pixelOf (c : Config) (index : Index) : Nat := index.toNat % c.pixelCount

/-- The address in `CB` of channel position `j` of the record of pixel `i` (20_memory.md R50). -/
def recordAddress (c : Config) (i j : Nat) : Nat := c.channels * i + j

/-- The white channel is position 3 (20_memory.md R53, decision D11). DESIGN CHOICE, log entry 19:
unsafe. -/
def whitePosition : Nat := 3

/-- The three colour bytes in wire order, positions 0, 1, 2 (20_memory.md R53). -/
def inWireOrder (o : WireOrder) (r g b : Byte) : Byte × Byte × Byte :=
  match o with
  | .grb => (g, r, b)
  | .rgb => (r, g, b)

/-- The index in `TB` of the first code of a half, `h * HALF` (20_memory.md R51). -/
def Half.base (c : Config) : Half → Nat
  | .first => 0
  | .second => c.half

end Sys2Proof.Machine
end

