-- ==== Sys2Proof/Machine/Color.lean ====
section
/-! DEFINITION. The integer arithmetic of the Color Pipeline (40_color_pipeline.md R111, R112, R115): exact
in natural numbers, narrowed to a byte at the end (no result exceeds a byte, R111, R112, R116). -/

namespace Sys2Proof.Machine

/-- The brightness law `x / (256 / (BR + 1))`, both divisions truncating (R111). -/
def bright (br x : Byte) : Byte := BitVec.ofNat 8 (x.toNat / (256 / (br.toNat + 1)))

/-- `scale8(x, s) = (x * s) >> 8` (R112; the definition is the spec's general knowledge G1, decision D8).
PRESUMED, log entry 16: unsafe. -/
def scale8 (x s : Byte) : Byte := BitVec.ofNat 8 ((x.toNat * s.toNat) >>> 8)

/-- Gamma on green: factor 176/256 when `GAMMA_EN` is true (R112). -/
def gammaGreen (c : Config) (x : Byte) : Byte := if c.gamma then scale8 x 0xB0#8 else x

/-- Gamma on blue: factor 240/256 when `GAMMA_EN` is true (R112). -/
def gammaBlue (c : Config) (x : Byte) : Byte := if c.gamma then scale8 x 0xF0#8 else x

/-- Three colour bytes `(r, g, b)`. -/
abbrev Rgb := Byte × Byte × Byte

/-- The integer HSV to RGB conversion with six 43-wide sectors (R115; the sector table is the spec's
general knowledge G2, decision D9). PRESUMED, log entry 17: unsafe. -/
def hsv2rgb (hue sat val : Byte) : Rgb :=
  if sat = 0#8 then (val, val, val)
  else
    let h := hue.toNat
    let s := sat.toNat
    let v := val.toNat
    let sector := h / 43
    let rem := (h - 43 * sector) * 6
    let p := BitVec.ofNat 8 ((v * (255 - s)) >>> 8)
    let q := BitVec.ofNat 8 ((v * (255 - ((s * rem) >>> 8))) >>> 8)
    let t := BitVec.ofNat 8 ((v * (255 - ((s * (255 - rem)) >>> 8))) >>> 8)
    match sector with
    | 0 => (val, t, p)
    | 1 => (q, val, p)
    | 2 => (p, val, t)
    | 3 => (p, q, val)
    | 4 => (t, p, val)
    | _ => (val, p, q)

/-- What `setPixelRGB` stores for a colour: brightness on each channel, then gamma on green and blue,
then wire order (R113, decision D10). DESIGN CHOICE, log entry 18: unsafe. -/
def storedColour (c : Config) (br r g b : Byte) : Byte × Byte × Byte :=
  inWireOrder c.order (bright br r) (gammaGreen c (bright br g)) (gammaBlue c (bright br b))

end Sys2Proof.Machine
end

