-- ==== Sys2Proof/Machine/Flags.lean ====
section
/-! DEFINITION. The only flag of the block, `ES` (10_state.md R34), and the status results: what the
command port answers, and the numbers of the answers (30_encoding.md R88). No operation computes a carry,
overflow or zero flag. -/

namespace Sys2Proof.Machine

/-- The operation ends and its result is returned to the caller (00_scope.md R11 `return`). Returning one
of the three error kinds is all that raising an error is: nothing is saved, stored or redirected
(60_exceptions.md R200). -/
def State.answer (s : State) (r : Reply) : State := { s with reply := some r }

/-- The 2-bit status code of an answer on the command port (30_encoding.md R88). -/
def Reply.code : Reply → BitVec 2
  | .status .ok => 0
  | .status .busy => 1
  | .status .paramError => 2
  | .status .transferStartError => 3
  | .engine .busy => 0
  | .engine .ready => 1

end Sys2Proof.Machine
end

