-- ==== Sys2Proof/Machine/Ops.lean ====
section
/-! DEFINITION. The shared operations over the two buffers and the ports: reading and writing one byte of
`CB`, what a fetch of a byte gives, writing one half of `TB`, raising and taking an event, and the
construction of an instance. -/

namespace Sys2Proof.Machine

/-- `CB[k]`: the byte written last, or the free reset byte where none has been written
(00_scope.md R11, 10_state.md R24). -/
def State.cbByte (s : State) (k : Nat) : Byte := (s.cb.read k).getD (Config.cbReset k)

/-- The values byte `k` of `CB` held before the writes of the transfer in flight (20_memory.md R63). -/
def State.oldValues (s : State) (k : Nat) : List Byte :=
  (s.raced.filter fun cell => cell.1 == k).map fun cell => cell.2

/-- `CB[k] <- v` (00_scope.md R11). The write is performed in either engine state (20_memory.md R62);
while a transfer is in flight the value it replaces is remembered, since a fetch of this byte later in the
transfer may give either (R63, 93_implementation_defined.md U1). DESIGN CHOICE, log entry 9: safe. -/
def State.storeByte (s : State) (k : Nat) (v : Byte) : State :=
  { s with
    cb := s.cb.write k v
    raced := match s.es with
      | .ready => s.raced
      | .busy => (k, s.cbByte k) :: s.raced }

/-- What the engine fetches from byte `k` of `CB`: the byte as it stands, or, where it was written during
the transfer in flight, a free choice among the values it has held (20_memory.md R63, R67,
93_implementation_defined.md U1). -/
def State.fetchByte (s : State) (k : Nat) : Byte :=
  match s.oldValues k with
  | [] => s.cbByte k
  | old :: olds =>
    (s.cbByte k :: old :: olds).getD (Config.raceChoice s.draws k % (olds.length + 2)) (s.cbByte k)

/-- The colour bytes at positions 0, 1, 2 of the record of pixel `i` (40_color_pipeline.md R113). -/
def State.storeColour (s : State) (i : Nat) (r g b : Byte) : State :=
  let stored := storedColour s.cfg.toConfig s.br r g b
  ((s.storeByte (recordAddress s.cfg.toConfig i 0) stored.1).storeByte
    (recordAddress s.cfg.toConfig i 1) stored.2.1).storeByte
    (recordAddress s.cfg.toConfig i 2) stored.2.2

/-- The white byte of the record of pixel `i`, scaled by brightness and not by gamma
(40_color_pipeline.md R119). -/
def State.storeWhite (s : State) (i : Nat) (w : Byte) : State :=
  s.storeByte (recordAddress s.cfg.toConfig i whitePosition) (bright s.br w)

/-- A single-pixel operation applied to every index `0..N-1` in ascending order
(40_color_pipeline.md R121). -/
def State.forEachPixel (s : State) (f : State → Nat → State) : State :=
  (List.range s.cfg.pixelCount).foldl f s

/-- The codes of one half of a buffer replaced by others (20_memory.md R51). -/
def replaceHalf (c : Config) (tb : List Nat) (h : Half) (codes : List Nat) : List Nat :=
  match h with
  | .first => codes ++ tb.drop c.half
  | .second => tb.take c.half ++ codes

/-- The codes a half of `TB` holds (20_memory.md R51). -/
def State.halfCodes (s : State) (h : Half) : List Nat :=
  match h with
  | .first => s.tb.take s.cfg.half
  | .second => s.tb.drop s.cfg.half

/-- The Transfer Engine raises an event on the event port (43_serializer.md R185 `deliver`). -/
def State.raiseEvent (s : State) (e : EventWord) : State := { s with event := some e }

/-- Entry to a callback: the event is consumed by the callback it invokes. Nothing is saved and nothing
is switched, so there is nothing to restore on return (60_exceptions.md R205, R209, R210). -/
def State.takeEvent (s : State) : State := { s with event := none }

/-- A transfer is in flight: the Transfer Engine raises events only between a successful `te_start` and
`te_stop`, so an event has a meaning only here (60_exceptions.md R211). DESIGN CHOICE, log entry 10: unsafe for a
Transfer Engine that raises an event late. -/
def State.inTransfer (s : State) : Bool := s.es == .busy && s.teRunning

/-- The construction of an instance, refused when the configuration is not legal (00_scope.md R9,
70_reset_and_hazards.md R230, R231, decisions D4, D30). DESIGN CHOICE, log entry 13: safe. -/
def construct (c : Config) : Host.Outcome State Fault Refusal :=
  if h : c.legal = true then .next (State.created ⟨c, h⟩) else .refused .illegalConfiguration

end Sys2Proof.Machine
end

