-- ==== Sys2Proof/Machine/ColorPipeline.lean ====
section
/-! DEFINITION. The meanings of the Color Pipeline operations (40_color_pipeline.md R110 to R125). None of
them touches `TB`, `PC` or `ES`; each is executed in either engine state (20_memory.md R62). -/

namespace Sys2Proof.Machine

/-- SET_BRIGHTNESS: `BR <- brightness; return OK` (R110). -/
def execSetBrightness (brightness : Byte) (s : State) : Host.Outcome State Fault Refusal :=
  .next ({ s with br := brightness }.answer (.status .ok))

/-- SET_PIXEL_RGB (R113). -/
def execSetPixelRgb (index : Index) (r g b : Byte) (s : State) : Host.Outcome State Fault Refusal :=
  .next ((s.storeColour (pixelOf s.cfg.toConfig index) r g b).answer (.status .ok))

/-- SET_PIXEL_HSV: the converted colour goes the way of SET_PIXEL_RGB (R117). -/
def execSetPixelHsv (index : Index) (hue sat val : Byte) (s : State) :
    Host.Outcome State Fault Refusal :=
  let rgb := hsv2rgb hue sat val
  .next ((s.storeColour (pixelOf s.cfg.toConfig index) rgb.1 rgb.2.1 rgb.2.2).answer (.status .ok))

/-- SET_PIXEL_WHITE: `ParamError` on a 3-channel configuration, before anything else (R119). -/
def execSetPixelWhite (index : Index) (w : Byte) (s : State) : Host.Outcome State Fault Refusal :=
  .next (if s.cfg.channels = 3 then s.answer (.status .paramError)
    else (s.storeWhite (pixelOf s.cfg.toConfig index) w).answer (.status .ok))

/-- FILL_RGB: SET_PIXEL_RGB for every pixel (R121). -/
def execFillRgb (r g b : Byte) (s : State) : Host.Outcome State Fault Refusal :=
  .next ((s.forEachPixel fun s i => s.storeColour i r g b).answer (.status .ok))

/-- FILL_HSV: one conversion, then FILL_RGB (R122). -/
def execFillHsv (hue sat val : Byte) (s : State) : Host.Outcome State Fault Refusal :=
  let rgb := hsv2rgb hue sat val
  .next ((s.forEachPixel fun s i => s.storeColour i rgb.1 rgb.2.1 rgb.2.2).answer (.status .ok))

/-- FILL_WHITE: `ParamError` on a 3-channel configuration, else the white byte of every pixel (R123).
The answer is decision D21: DESIGN CHOICE, log entry 25, unsafe as to the status. -/
def execFillWhite (w : Byte) (s : State) : Host.Outcome State Fault Refusal :=
  .next (if s.cfg.channels = 3 then s.answer (.status .paramError)
    else (s.forEachPixel fun s i => s.storeWhite i w).answer (.status .ok))

/-- CLEAR: every byte of `CB` becomes 0 (R125, decision D12). DESIGN CHOICE, log entry 20: unsafe. -/
def execClear (s : State) : Host.Outcome State Fault Refusal :=
  .next (((List.range s.cfg.colourBytes).foldl (fun s k => s.storeByte k 0#8) s).answer (.status .ok))

end Sys2Proof.Machine
end

