-- ==== Sys2Proof/Machine/BitEncoder.lean ====
section
/-! DEFINITION. The Bit Encoder (41_bit_encoder.md R140) and the two micro-operations that write the
Transfer Buffer, `encodePixel` (R142) and `zeroHalf` (R143). -/

namespace Sys2Proof.Machine

/-- `encodeByte(v)`: eight codes, most-significant bit first, code `i` by the test
`(v << i) & 0x80` (R140). -/
def encodeByte (c : Config) (v : Byte) : List Nat :=
  (List.range 8).map fun i =>
    if (v.toNat <<< i) &&& 0x80 ≠ 0 then c.highCode else c.lowCode

/-- The codes of one record: its bytes in channel position order, each encoded (R142, 20_memory.md
R51, decision D14). DESIGN CHOICE, log entry 21: unsafe. -/
def encodeRecord (c : Config) (record : List Byte) : List Nat := record.flatMap (encodeByte c)

/-- The record of pixel `p` as the engine fetches it, `CB[C*p .. C*p + C - 1]` (R142). -/
def State.fetchRecord (s : State) (p : Nat) : List Byte :=
  (List.range s.cfg.channels).map fun j => s.fetchByte (recordAddress s.cfg.toConfig p j)

/-- `encodePixel(p, h)`: stage pixel `p` into half `h` (R142). The fetch takes one draw of the free
values. -/
def State.encodePixel (s : State) (p : Nat) (h : Half) : State :=
  { s with
    tb := replaceHalf s.cfg.toConfig s.tb h (encodeRecord s.cfg.toConfig (s.fetchRecord p))
    draws := s.draws + 1 }

/-- `zeroHalf(h)`: stage one half of the reset tail (R143). -/
def State.zeroHalf (s : State) (h : Half) : State :=
  { s with tb := replaceHalf s.cfg.toConfig s.tb h (List.replicate s.cfg.half 0) }

end Sys2Proof.Machine
end

