-- ==== Sys2Proof/Machine/Serializer.lean ====
section
/-! DEFINITION. The Transfer Engine as the reference serializer (43_serializer.md R180 to R185):
`te_start`, `te_stop`, `te_idle`, and its own step `emit`. DESIGN CHOICE (decisions D17, D18, D26), log entry
24: unsafe for other Transfer Engines. -/

namespace Sys2Proof.Machine

/-- `te_idle = not TE.running` (43_serializer.md R183). -/
def State.teIdle (s : State) : Bool := !s.teRunning

/-- What the Transfer Engine answers to the next `te_start`: the environment's answer, or a free value
where the environment has listed none (43_serializer.md R181, decision D24). -/
def State.startAnswer (s : State) : Bool :=
  match s.startAnswers with
  | [] => Config.teStartOk s.draws
  | r :: _ => r

/-- `te_start`: on ok the Transfer Engine runs from `TB[0]`; on error it does not start
(43_serializer.md R181, R185). The answer is used up and one draw is taken. -/
def State.teStart (s : State) : State :=
  { s with
    teRunning := if s.startAnswer then true else s.teRunning
    tePos := if s.startAnswer then 0 else s.tePos
    startAnswers := s.startAnswers.tail
    draws := s.draws + 1 }

/-- `te_stop`: no further code and no further event until the next successful `te_start`
(43_serializer.md R182). -/
def State.teStop (s : State) : State := { s with teRunning := false }

/-- `TE.pos` after an emission, and the event the emission raises: after the last code of half 0 the
half-consumed event, after the last code of half 1 the full-consumed event and the wrap to `TB[0]`
(43_serializer.md R185). -/
def State.advance (s : State) : State :=
  if s.tePos + 1 = s.cfg.half then { s with tePos := s.tePos + 1 }.raiseEvent 0#1
  else if s.tePos + 1 = s.cfg.bufferLength then { s with tePos := 0 }.raiseEvent 1#1
  else { s with tePos := s.tePos + 1 }

/-- `emit`: a running Transfer Engine appends `TB[TE.pos]` to `WIRE` and moves on; one that does not run
emits nothing (43_serializer.md R185, R191). -/
def State.emit (s : State) : Host.Outcome State Fault Refusal :=
  if s.teRunning then
    match s.tb[s.tePos]? with
    | none => .fault .codeIndexOutOfRange
    | some code => .next { s with wire := s.wire ++ [code] }.advance
  else .next s

end Sys2Proof.Machine
end

