-- ==== Sys2Proof/Machine/Engine.lean ====
section
/-! DEFINITION. The meanings of the Streaming Engine's operations and events (42_streaming_engine.md R150
to R160): `init`, `show`, `isReady`, `onHalfConsumed`, `onFullConsumed`. -/

namespace Sys2Proof.Machine

/-- INIT: `ES <- READY; PC <- 0; return OK`; no meaning while `ES = BUSY` (R150). It writes no other hardware
state, and being a reset (70_reset_and_hazards.md R230) it begins the ghost history `WIRE` anew (10_state.md
R41, R42). DESIGN CHOICE (decision D13), log entries 12 and 33; DEDUCED for `WIRE`, log entry 11. -/
def execInit (s : State) : Host.Outcome State Fault Refusal :=
  if s.es = .busy then .refused .initWhileBusy
  else .next ({ s with es := .ready, pc := 0, wire := [] }.answer (.status .ok))

/-- What `show` does before it calls `te_start`: the engine is `BUSY` at once, and the seed puts pixels 0
and 1 as they stand into the two halves (R151, R152). A new transfer starts with no raced byte. -/
def State.seed (s : State) : State :=
  ({ s with es := .busy, raced := [] }.encodePixel 0 .first).encodePixel 1 .second

/-- The accepted path of `show`, start failure included (R151, R152, R159). The state after a failed
start is decision D15: DESIGN CHOICE, log entry 22. -/
def State.startTransfer (s : State) : State :=
  { s.seed.teStart with pc := 2 }.answer
    (if s.seed.startAnswer then .status .ok else .status .transferStartError)

/-- SHOW, also called `trigger` (R151): the busy path (R153) or the accepted path. -/
def execTrigger (s : State) : Host.Outcome State Fault Refusal :=
  .next (if s.es = .busy ∨ s.teIdle = false then s.answer (.status .busy) else s.startTransfer)

/-- IS_READY: `return ES` (R160). -/
def execIsReady (s : State) : Host.Outcome State Fault Refusal :=
  .next (s.answer (.engine s.es))

/-- What both callbacks do while `PC < N + 2`: the next real pixel into the half, or one half of the reset
tail, and `PC <- PC + 1` (R154, R156). -/
def State.refill (s : State) (h : Half) : State :=
  if s.pc < s.cfg.pixelCount then { s.encodePixel s.pc h with pc := s.pc + 1 }
  else { s.zeroHalf h with pc := s.pc + 1 }

/-- The end of a transfer: `te_stop()`, `PC <- 0`, `ES <- READY` in one step (R158). With the transfer
over no byte is raced. -/
def State.terminate (s : State) : State :=
  { s.teStop with pc := 0, es := .ready, raced := [] }

/-- EV_HALF, `onHalfConsumed` (R154, R155); no meaning outside a transfer (60_exceptions.md R211). -/
def execEvHalf (s : State) : Host.Outcome State Fault Refusal :=
  if s.inTransfer then .next (if s.pc < s.cfg.pixelCount + 2 then s.refill .first else s)
  else .refused .eventOutsideTransfer

/-- EV_FULL, `onFullConsumed` (R156 to R158); no meaning outside a transfer (60_exceptions.md R211). -/
def execEvFull (s : State) : Host.Outcome State Fault Refusal :=
  if s.inTransfer then .next (if s.pc < s.cfg.pixelCount + 2 then s.refill .second else s.terminate)
  else .refused .eventOutsideTransfer

end Sys2Proof.Machine
end

