-- ==== Sys2Proof/Machine/Dispatch.lean ====
section
/-! DEFINITION. The meaning of every instruction: one arm per constructor of Instr. -/

namespace Sys2Proof.Machine

def exec (i : Instr) (s : State) : Host.Outcome State Fault Refusal :=
  match i with
  | .init => Sys2Proof.Machine.execInit s
  | .clear => Sys2Proof.Machine.execClear s
  | .setBrightness brightness => Sys2Proof.Machine.execSetBrightness brightness s
  | .setPixelRgb index r g b => Sys2Proof.Machine.execSetPixelRgb index r g b s
  | .setPixelHsv index hue sat val => Sys2Proof.Machine.execSetPixelHsv index hue sat val s
  | .setPixelWhite index w => Sys2Proof.Machine.execSetPixelWhite index w s
  | .fillRgb r g b => Sys2Proof.Machine.execFillRgb r g b s
  | .fillHsv hue sat val => Sys2Proof.Machine.execFillHsv hue sat val s
  | .fillWhite w => Sys2Proof.Machine.execFillWhite w s
  | .trigger => Sys2Proof.Machine.execTrigger s
  | .isReady => Sys2Proof.Machine.execIsReady s
  | .evHalf => Sys2Proof.Machine.execEvHalf s
  | .evFull => Sys2Proof.Machine.execEvFull s

end Sys2Proof.Machine
end

