-- ==== Sys2Proof/Decode.lean ====
section
/-! DEFINITION. The decoder of the command port and of the event port (30_encoding.md R81 to R84, R89),
total and rejecting by name; then the encoder, written from the same tables, and the opcode table as rows
of match and mask. The binary form is the spec's own (D20): DESIGN CHOICE, log entry 14, safe. -/

namespace Sys2Proof

/-- Why a command word spells no operation (30_encoding.md R89). -/
inductive DecodeError where
  /-- `W[47:40]` is in `0x0B..0xFF`. -/
  | reservedSelector
  /-- A field the operation does not use is not zero. -/
  | unusedFieldNotZero
  deriving DecidableEq, Repr

/-- `W[47:40]`, the operation selector (R81). -/
def opField (w : CommandWord) : BitVec 8 := w.extractLsb' 40 8

/-- `W[39:24]`, the pixel index (R81). -/
def indexField (w : CommandWord) : Index := w.extractLsb' 24 16

/-- `W[23:16]`, the first byte operand (R81). -/
def aField (w : CommandWord) : Byte := w.extractLsb' 16 8

/-- `W[15:8]`, the second byte operand (R81). -/
def bField (w : CommandWord) : Byte := w.extractLsb' 8 8

/-- `W[7:0]`, the third byte operand (R81). -/
def cField (w : CommandWord) : Byte := w.extractLsb' 0 8

/-- An operation whose unused fields must be zero (R89). -/
def ifUnusedZero (unusedZero : Bool) (i : Instr) : Except DecodeError Instr :=
  if unusedZero then .ok i else .error .unusedFieldNotZero

/-- The operation a command word spells, by the selector table of 30_encoding.md R82. -/
def decodeCommand (w : CommandWord) : Except DecodeError Instr :=
  let index := indexField w
  let a := aField w
  let b := bField w
  let c := cField w
  match (opField w).toNat with
  | 0x00 => ifUnusedZero (index == 0 && a == 0 && b == 0 && c == 0) .init
  | 0x01 => ifUnusedZero (index == 0 && a == 0 && b == 0 && c == 0) .clear
  | 0x02 => ifUnusedZero (index == 0 && b == 0 && c == 0) (.setBrightness a)
  | 0x03 => .ok (.setPixelRgb index a b c)
  | 0x04 => .ok (.setPixelHsv index a b c)
  | 0x05 => ifUnusedZero (b == 0 && c == 0) (.setPixelWhite index a)
  | 0x06 => ifUnusedZero (index == 0) (.fillRgb a b c)
  | 0x07 => ifUnusedZero (index == 0) (.fillHsv a b c)
  | 0x08 => ifUnusedZero (index == 0 && b == 0 && c == 0) (.fillWhite a)
  | 0x09 => ifUnusedZero (index == 0 && a == 0 && b == 0 && c == 0) .trigger
  | 0x0A => ifUnusedZero (index == 0 && a == 0 && b == 0 && c == 0) .isReady
  | _ => .error .reservedSelector

/-- The event an event word stands for (30_encoding.md R83). -/
def decodeEvent (e : EventWord) : Instr :=
  if e = 0#1 then .evHalf else .evFull

/-- The instruction a port word stands for. -/
def decode : PortWord → Except DecodeError Instr
  | .command w => decodeCommand w
  | .event e => .ok (decodeEvent e)

/-- The decoder on a row of spec/opcode_table.json. A command is one 48-bit word and an event one bit
(R81, R83), held by the table in 8 bits when counted in whole bytes; a value that does not fit its port is
no word of it. -/
def decodeTableWord (nbits w : Nat) : Option Instr :=
  if nbits = 48 then
    if w < 2 ^ 48 then (decodeCommand (BitVec.ofNat 48 w)).toOption else none
  else if nbits = 8 ∨ nbits = 1 then
    if w < 2 then some (decodeEvent (BitVec.ofNat 1 w)) else none
  else none

/-- A command word from its five fields, each at the place of its lowest bit (30_encoding.md R81). -/
def commandWord (op : BitVec 8) (index : Index) (a b c : Byte) : CommandWord :=
  BitVec.ofNat 48 (op.toNat * 2 ^ 40 + index.toNat * 2 ^ 24 + a.toNat * 2 ^ 16 + b.toNat * 2 ^ 8 + c.toNat)

/-- The port word that spells an instruction (30_encoding.md R82, R83); unused fields are zero. -/
def encode : Instr → PortWord
  | .init => .command (commandWord 0x00 0 0 0 0)
  | .clear => .command (commandWord 0x01 0 0 0 0)
  | .setBrightness brightness => .command (commandWord 0x02 0 brightness 0 0)
  | .setPixelRgb index r g b => .command (commandWord 0x03 index r g b)
  | .setPixelHsv index hue sat val => .command (commandWord 0x04 index hue sat val)
  | .setPixelWhite index w => .command (commandWord 0x05 index w 0 0)
  | .fillRgb r g b => .command (commandWord 0x06 0 r g b)
  | .fillHsv hue sat val => .command (commandWord 0x07 0 hue sat val)
  | .fillWhite w => .command (commandWord 0x08 0 w 0 0)
  | .trigger => .command (commandWord 0x09 0 0 0 0)
  | .isReady => .command (commandWord 0x0A 0 0 0 0)
  | .evHalf => .event 0#1
  | .evFull => .event 1#1

/-- One command row of spec/opcode_table.json: a word is a word of the row when its bits under `mask`
are `pattern`. -/
structure OpcodeRow where
  mnemonic : String
  pattern : CommandWord
  mask : CommandWord
  deriving DecidableEq, Repr

/-- The eleven command rows of spec/opcode_table.json (their "match" and "mask"). -/
def commandRows : List OpcodeRow := [
  ⟨"INIT", 0x000000000000, 0xFFFFFFFFFFFF⟩,
  ⟨"CLEAR", 0x010000000000, 0xFFFFFFFFFFFF⟩,
  ⟨"SET_BRIGHTNESS", 0x020000000000, 0xFFFFFF00FFFF⟩,
  ⟨"SET_PIXEL_RGB", 0x030000000000, 0xFF0000000000⟩,
  ⟨"SET_PIXEL_HSV", 0x040000000000, 0xFF0000000000⟩,
  ⟨"SET_PIXEL_WHITE", 0x050000000000, 0xFF000000FFFF⟩,
  ⟨"FILL_RGB", 0x060000000000, 0xFFFFFF000000⟩,
  ⟨"FILL_HSV", 0x070000000000, 0xFFFFFF000000⟩,
  ⟨"FILL_WHITE", 0x080000000000, 0xFFFFFF00FFFF⟩,
  ⟨"SHOW", 0x090000000000, 0xFFFFFFFFFFFF⟩,
  ⟨"IS_READY", 0x0A0000000000, 0xFFFFFFFFFFFF⟩]

/-- Whether a command word is a word of a row. -/
def OpcodeRow.accepts (row : OpcodeRow) (w : CommandWord) : Bool := w &&& row.mask == row.pattern

/-- The mnemonic of an instruction, as spec/opcode_table.json has it. -/
def Instr.mnemonic : Instr → String
  | .init => "INIT"
  | .clear => "CLEAR"
  | .setBrightness _ => "SET_BRIGHTNESS"
  | .setPixelRgb _ _ _ _ => "SET_PIXEL_RGB"
  | .setPixelHsv _ _ _ _ => "SET_PIXEL_HSV"
  | .setPixelWhite _ _ => "SET_PIXEL_WHITE"
  | .fillRgb _ _ _ => "FILL_RGB"
  | .fillHsv _ _ _ => "FILL_HSV"
  | .fillWhite _ => "FILL_WHITE"
  | .trigger => "SHOW"
  | .isReady => "IS_READY"
  | .evHalf => "EV_HALF"
  | .evFull => "EV_FULL"

end Sys2Proof
end

