-- ==== Sys2Proof/Machine/Fetch.lean ====
section
/-! DEFINITION. Where the machine's next step comes from (00_scope.md R12, 43_serializer.md R185): a raised
event first, then what the world outside does next; and how an instruction is placed there. -/

namespace Sys2Proof.Machine

/-- The port word the next step runs, with the state in which it has been taken from its port. A raised
event is delivered as the very next step (43_serializer.md R185) and so comes before the caller's next
operation. DESIGN CHOICE, log entry 7: safe. -/
def State.fetched (s : State) : Option (PortWord × State) :=
  match s.event with
  | some e => some (.event e, s.takeEvent)
  | none =>
    match s.inputs with
    | .command w :: rest => some (.command w, { s with inputs := rest })
    | .pulse :: _ => none
    | [] => none

/-- The step when neither an event nor a command is to run: one pulse period passes, in which a running
Transfer Engine emits one code (43_serializer.md R185); the block by itself does nothing
(70_reset_and_hazards.md R230). -/
def State.pulseStep (s : State) : Host.Outcome State Fault Refusal :=
  { s with inputs := s.inputs.tail }.emit

/-- The refusal of a port word that spells no instruction (30_encoding.md R89). -/
def refusalOf : DecodeError → Refusal
  | .reservedSelector => .reservedSelector
  | .unusedFieldNotZero => .unusedFieldNotZero

/-- A command word placed as the caller's next operation, with no event before it. -/
def State.placeCommand (s : State) (w : CommandWord) : State :=
  { s with event := none, inputs := .command w :: s.inputs }

/-- The position of the Transfer Engine when it raises an event: `HALF` after the first half, 0 after the
second (43_serializer.md R185). -/
def eventPosition (c : Config) (e : EventWord) : Nat := if e = 0#1 then c.half else 0

/-- An event word placed on the event port. The port carries an event only while a transfer is in flight
(60_exceptions.md R211), so where none is, one is placed as an accepted `show` leaves it: `ES = BUSY`,
`PC = 2`, the Transfer Engine running. Log entry 8. -/
def State.placeEvent (s : State) (e : EventWord) : State :=
  if s.inTransfer then { s with event := some e }
  else { s with event := some e, es := .busy, pc := 2, teRunning := true,
                tePos := eventPosition s.cfg.toConfig e }

/-- An instruction of `nbits` bits with the value `w`, placed where the next step takes its word: 48 bits
are a command word, fewer are an event word (30_encoding.md R81, R83). -/
def State.placeWord (s : State) (nbits w : Nat) : State :=
  if nbits = 48 then s.placeCommand (BitVec.ofNat 48 w) else s.placeEvent (BitVec.ofNat 1 w)

end Sys2Proof.Machine
end

