-- ==== Sys2Proof/Machine/Step.lean ====
section
/-! DEFINITION. One step of the machine (00_scope.md R12): one event callback, one command-port operation,
or one pulse period of the Transfer Engine. Steps are atomic (decision D23): DESIGN CHOICE, log entry 26. -/

namespace Sys2Proof.Machine

/-- One step. -/
def step (s : State) : Host.Outcome State Fault Refusal :=
  match s.fetched with
  | some (word, taken) =>
    match decode word with
    | .ok i => exec i taken
    | .error e => .refused (refusalOf e)
  | none => s.pulseStep

/-- The state in which the very next step runs the instruction of `nbits` bits with the value `w`. Log
entry 8. -/
def State.withFetchWord (s : State) (nbits w : Nat) : State := s.placeWord nbits w

end Sys2Proof.Machine
end

