-- ==== Sys2Proof/Machine/Wire.lean ====
section
/-! DEFINITION. The LED wire as an observer sees it (30_encoding.md R86, R87): the symbol of a code, the
receiver's byte, the codes of a pixel and of a whole frame (43_serializer.md R190), and the lifecycle
phases (00_scope.md R14). No step reads any of these. -/

namespace Sys2Proof.Machine

/-- The three symbols the line carries (30_encoding.md R86). -/
inductive Symbol where
  | bit1
  | bit0
  | rst
  deriving DecidableEq, Repr

/-- The symbol of a code; a code that is none of the three is no symbol (30_encoding.md R86, R91). -/
def symbolOf (c : Config) (code : Nat) : Option Symbol :=
  if code = c.highCode then some .bit1
  else if code = c.lowCode then some .bit0
  else if code = 0 then some .rst
  else none

/-- The waveform of one pulse period: ticks high and ticks in all (30_encoding.md R86, 43_serializer.md
R186). -/
def pulseTicks (c : Config) (code : Nat) : Nat × Nat := (code, c.reloadCount)

/-- A receiver takes in one code after the bits `acc`; a reset symbol, or no symbol, is no data
(41_bit_encoder.md R144). -/
def receiveCode (c : Config) (acc : Option Nat) (code : Nat) : Option Nat :=
  match symbolOf c code with
  | some .bit1 => acc.map fun n => 2 * n + 1
  | some .bit0 => acc.map fun n => 2 * n
  | some .rst => none
  | none => none

/-- The number a receiver assembles from codes, most-significant bit first (41_bit_encoder.md R144,
20_memory.md R54). -/
def receivedValue (c : Config) (codes : List Nat) : Option Nat := codes.foldl (receiveCode c) (some 0)

/-- The record of pixel `i` as it stands in `CB` (10_state.md R21). -/
def State.record (s : State) (i : Nat) : List Byte :=
  (List.range s.cfg.channels).map fun j => s.cbByte (recordAddress s.cfg.toConfig i j)

/-- `enc(i)`: the `HALF` codes of the record of pixel `i` (43_serializer.md R190). -/
def State.encodedPixel (s : State) (i : Nat) : List Nat := encodeRecord s.cfg.toConfig (s.record i)

/-- `z`: how many zero halves of the reset tail go out on the wire (43_serializer.md R190). -/
def tailHalves (c : Config) : Nat := if c.pixelCount % 2 = 1 then 1 else 2

/-- The frame of `CB` as it stands: every pixel in ascending order, then the reset tail
(43_serializer.md R190). -/
def State.frame (s : State) : List Nat :=
  (List.range s.cfg.pixelCount).flatMap s.encodedPixel ++
    List.replicate (s.cfg.half * tailHalves s.cfg.toConfig) 0

/-- The number of events of one transfer, `2 * (N / 2) + 2` (42_streaming_engine.md R166). -/
def transferEvents (c : Config) : Nat := 2 * (c.pixelCount / 2) + 2

/-- The lifecycle phases a state can be in (00_scope.md R14; "done" is the terminating step itself). -/
inductive Phase where
  | idle
  | armed
  | streaming
  | resetTail
  deriving DecidableEq, Repr

/-- The phase as a label of `(ES, PC)` (00_scope.md R14): the cursor is 2 exactly before the first event of
the transfer, at most `N` while the last unit staged is a real pixel, and above `N` in the reset tail. DESIGN CHOICE, log entry 36: safe. -/
def State.phase (s : State) : Phase :=
  match s.es with
  | .ready => .idle
  | .busy =>
    if s.pc ≤ 2 then .armed
    else if s.pc ≤ s.cfg.pixelCount then .streaming
    else .resetTail

end Sys2Proof.Machine
end

