-- ==== Sys2Proof/Safety.lean ====
section
/-! DEFINITION. What claims use: the invariant of the machine, part by part, the caller contract, and the
frame of a colour operation. -/

namespace Sys2Proof

/-- A code the block itself may write (10_state.md R27). -/
abbrev Config.isCode (c : Config) (code : Nat) : Prop :=
  code = 0 ∨ code = c.lowCode ∨ code = c.highCode

/-- The operations that may write `CB`: the Color Pipeline operations but `setBrightness` (10_state.md R23,
20_memory.md R58). -/
def Instr.writesColourBuffer : Instr → Bool
  | .clear => true
  | .setPixelRgb _ _ _ _ => true
  | .setPixelHsv _ _ _ _ => true
  | .setPixelWhite _ _ => true
  | .fillRgb _ _ _ => true
  | .fillHsv _ _ _ => true
  | .fillWhite _ => true
  | .init => false
  | .setBrightness _ => false
  | .trigger => false
  | .isReady => false
  | .evHalf => false
  | .evFull => false

namespace Machine

/-- `CB` is in canonical form and lists only addresses that exist (10_state.md R21, R39). -/
abbrev State.MemoryOk (s : State) : Prop :=
  s.cb.wf ∧ ∀ cell ∈ s.cb, cell.1 < s.cfg.colourBytes

/-- `TB` has `L` elements of `CODE_WIDTH` bits (10_state.md R25). -/
abbrev State.BufferOk (s : State) : Prop :=
  s.tb.length = s.cfg.bufferLength ∧ ∀ code ∈ s.tb, code < 2 ^ s.cfg.codeWidth

/-- The control state: `ES = READY` implies `PC = 0`, `ES = BUSY` implies `2 <= PC <= N + 2`
(42_streaming_engine.md R170). -/
abbrev State.ControlOk (s : State) : Prop :=
  (s.es = .ready → s.pc = 0) ∧ (s.es = .busy → 2 ≤ s.pc ∧ s.pc ≤ s.cfg.pixelCount + 2)

/-- The Transfer Engine runs only during a transfer, its position is an index of `TB`, and a raised event
stands where it was raised (43_serializer.md R183, R184, R185). -/
abbrev State.SerializerOk (s : State) : Prop :=
  (s.teRunning = true → s.es = .busy) ∧ s.tePos < s.cfg.bufferLength ∧
    (s.event = some 0#1 → s.teRunning = true ∧ s.tePos = s.cfg.half) ∧
    (s.event = some 1#1 → s.teRunning = true ∧ s.tePos = 0)

/-- While the engine is `READY` the Transfer Engine's position is the reset value 0 (10_state.md R42,
43_serializer.md R185). -/
abbrev State.IdleOk (s : State) : Prop := s.es = .ready → s.tePos = 0

/-- No byte is raced outside a transfer (20_memory.md R63, R67). -/
abbrev State.RaceOk (s : State) : Prop := s.es = .ready → s.raced = []

/-- During a transfer every code of `TB` is `0`, `LOW_CODE` or `HIGH_CODE` (10_state.md R27). -/
abbrev State.CodesOk (s : State) : Prop := s.es = .busy → ∀ code ∈ s.tb, s.cfg.toConfig.isCode code

/-- The half whose consumption is reported next (42_streaming_engine.md R163). -/
def State.nextHalf (s : State) : Half :=
  match s.event with
  | some e => if e = 0#1 then .first else .second
  | none => if s.tePos < s.cfg.half then .first else .second

/-- The half that pixel `p` travels in, `p mod 2` (20_memory.md R55). -/
def halfOfPixel (p : Nat) : Half := if p % 2 = 0 then .first else .second

/-- The cursor and the Transfer Engine keep step (42_streaming_engine.md R163 to R166, R171): while the
cursor is at most `N + 1` the next refill goes into half `PC mod 2`, and once the two zero refills are done
`TB` is all zero. -/
abbrev State.StreamOk (s : State) : Prop :=
  s.teRunning = true →
    (s.pc ≤ s.cfg.pixelCount + 1 → s.nextHalf = halfOfPixel s.pc) ∧
    (s.pc = s.cfg.pixelCount + 1 →
      s.halfCodes (halfOfPixel s.cfg.pixelCount) = List.replicate s.cfg.half 0) ∧
    (s.pc = s.cfg.pixelCount + 2 →
      s.tb = List.replicate s.cfg.bufferLength 0 ∧
      (s.cfg.pixelCount % 2 = 1 → s.nextHalf = .second))

/-- The invariant of the machine. -/
abbrev State.Inv (s : State) : Prop :=
  s.MemoryOk ∧ s.BufferOk ∧ s.ControlOk ∧ s.SerializerOk ∧ s.RaceOk ∧ s.CodesOk ∧ s.StreamOk

/-- What the caller may do during a transfer under the caller contract (20_memory.md R62, R207): let time
pass, poll with `isReady`, try `show`, or change the brightness, none of which writes `CB`. -/
def Input.keepsContract : Input → Bool
  | .pulse => true
  | .command w =>
    match decodeCommand w with
    | .ok .isReady => true
    | .ok .trigger => true
    | .ok (.setBrightness _) => true
    | _ => false

/-- Nothing but `CB` and the answer changed; what was raced changed only if a transfer is in flight: the
frame of every colour operation (40_color_pipeline.md, header). -/
abbrev ColourFrame (s t : State) : Prop :=
  t = { s with cb := t.cb, raced := t.raced, reply := t.reply } ∧ (s.es = .ready → t.raced = s.raced)

end Machine

end Sys2Proof
end

