-- ==== Sys2Proof/Certificates/Slice0/Obligations.lean ====
section
/-! DEFINITION. The statements for the provers, from the numbered rules of spec/. Each docstring names the
rules; where a statement rests on a decision or an inference that the spec marks as its own, or on a choice
of the model, it says so. -/

open Sys2Proof Sys2Proof.Machine

/-! ### Encoding and decoding -/

/-- 30_encoding.md R82, R83, R89 through the words of 95_test_vectors.md V70 to V82: a few words written out
from the table decode to the instructions they stand for. The word format is the spec's own (D20). -/
def Obligations.SampleWordsDecode : Prop :=
  decodeCommand 0x000000000000#48 = .ok .init ∧
  decodeCommand 0x010000000000#48 = .ok .clear ∧
  decodeCommand 0x0200007F0000#48 = .ok (.setBrightness 127#8) ∧
  decodeCommand 0x03000100FF00#48 = .ok (.setPixelRgb 1#16 0#8 255#8 0#8) ∧
  decodeCommand 0x04FFFF55FFFF#48 = .ok (.setPixelHsv 65535#16 85#8 255#8 255#8) ∧
  decodeCommand 0x050003C80000#48 = .ok (.setPixelWhite 3#16 200#8) ∧
  decodeCommand 0x090000000000#48 = .ok .trigger ∧
  decodeCommand 0x0A0000000000#48 = .ok .isReady ∧
  decodeCommand 0x0B0000000000#48 = .error .reservedSelector ∧
  decodeCommand 0x090000000001#48 = .error .unusedFieldNotZero ∧
  decodeEvent 0#1 = .evHalf ∧ decodeEvent 1#1 = .evFull

/-- 30_encoding.md R81 to R84: every instruction, with every operand at every value its field admits, is
read back from the word that spells it. -/
def Obligations.EveryInstructionDecodesFromItsWord : Prop :=
  ∀ i : Instr, decode (encode i) = .ok i

/-- 30_encoding.md R82, R89: a command word has one meaning, and only the word the tables give an operation
spells it. -/
def Obligations.DecodedCommandIsTheWordOfItsOperation : Prop :=
  ∀ (w : CommandWord) (i : Instr), decodeCommand w = .ok i → encode i = .command w

/-- opcode_table.json, 30_encoding.md R82, R89: a command word is read as an operation of a row exactly when
it has the row's pattern under the row's mask. -/
def Obligations.DecoderFollowsTheOpcodeTable : Prop :=
  ∀ (w : CommandWord), ∀ row ∈ commandRows,
    (row.accepts w = true ↔ ∃ i, decodeCommand w = .ok i ∧ i.mnemonic = row.mnemonic)

/-- 30_encoding.md R89 (D20): the words that spell no operation are those whose selector is in
`0x0B..0xFF` and those with a non-zero unused field; the machine refuses them by name, whatever the
state. -/
def Obligations.ReservedWordsAreRefused : Prop :=
  (∀ w : CommandWord, decodeCommand w = .error .reservedSelector ↔ 0x0B ≤ (opField w).toNat) ∧
  (∀ w : CommandWord, decodeCommand w = .error .unusedFieldNotZero ↔
    (opField w).toNat ≤ 0x0A ∧ ∀ row ∈ commandRows, row.accepts w = false) ∧
  (∀ (s : State) (w : CommandWord) (rest : List Input) (e : DecodeError),
    s.event = none → s.inputs = .command w :: rest → decodeCommand w = .error e →
    step s = .refused (refusalOf e))

/-! ### A step -/

/-- 00_scope.md R12, 43_serializer.md R185: a step runs the decoded instruction. A raised event runs first,
taken from its port; otherwise the caller's next command runs, taken from the list of inputs. The list of
inputs is the model's (log entry 7). -/
def Obligations.StepRunsTheDecodedInstruction : Prop :=
  (∀ (s : State) (e : EventWord), s.event = some e →
    step s = exec (decodeEvent e) { s with event := none }) ∧
  (∀ (s : State) (w : CommandWord) (rest : List Input) (i : Instr),
    s.event = none → s.inputs = .command w :: rest → decodeCommand w = .ok i →
    step s = exec i { s with inputs := rest })

/-- 70_reset_and_hazards.md R230: "the block does nothing until the caller issues an operation". With no
event, no command and the Transfer Engine stopped, a step changes nothing but the pulse it uses up (the list
of inputs is the model's, log entry 7). -/
def Obligations.IdleMachineDoesNothing : Prop :=
  ∀ s : State, s.event = none → s.teRunning = false → (∀ w rest, s.inputs ≠ .command w :: rest) →
    step s = .next { s with inputs := s.inputs.tail }

/-- 43_serializer.md R185 (D17), R184: a step of a running Transfer Engine appends `TB[TE.pos]` to `WIRE` and
moves on, raising the half-consumed event after the last code of half 0 and the full-consumed event, with
the wrap to 0, after the last code of half 1, and no event otherwise. -/
def Obligations.EmissionAppendsOneCodeAndRaisesEvents : Prop :=
  ∀ s : State, s.BufferOk → s.tePos < s.cfg.bufferLength → s.teRunning = true → s.event = none →
    (∀ w rest, s.inputs ≠ .command w :: rest) →
    ∃ t code, step s = .next t ∧ s.tb[s.tePos]? = some code ∧ t.wire = s.wire ++ [code] ∧
      (s.tePos + 1 = s.cfg.half → t.tePos = s.cfg.half ∧ t.event = some 0#1) ∧
      (s.tePos + 1 = s.cfg.bufferLength → t.tePos = 0 ∧ t.event = some 1#1) ∧
      (s.tePos + 1 ≠ s.cfg.half → s.tePos + 1 ≠ s.cfg.bufferLength →
        t.tePos = s.tePos + 1 ∧ t.event = none) ∧
      t = { s with wire := t.wire, tePos := t.tePos, event := t.event, inputs := s.inputs.tail }

/-! ### The Color Pipeline -/

/-- 40_color_pipeline.md R110: `BR <- brightness`, `OK`, and nothing else; no byte of `CB` changes. With the
rule's encoding and its example. -/
def Obligations.SetBrightnessWritesOnlyBrightness : Prop :=
  (∀ (brightness : Byte) (s : State), ∃ t, exec (.setBrightness brightness) s = .next t ∧
    t = { s with br := brightness, reply := some (.status .ok) } ∧
    ∀ k, t.cbByte k = s.cbByte k) ∧
  (∀ brightness : Byte,
    encode (.setBrightness brightness) = .command (commandWord 0x02#8 0#16 brightness 0#8 0#8)) ∧
  (∀ s : State, ∃ t u v, exec (.setBrightness 127#8) s = .next t ∧
    exec (.setPixelRgb 0#16 255#8 0#8 0#8) t = .next u ∧ exec (.setBrightness 255#8) u = .next v ∧
    u.cbByte (if s.cfg.order = .grb then 1 else 0) = 127#8 ∧
    v.cbByte (if s.cfg.order = .grb then 1 else 0) = 127#8)

/-- 40_color_pipeline.md R111: the stored value is exactly `x / (256 / (BR + 1))` in integers, no truncation
to 8 bits happens; every `BR` in 128..255 leaves the channel unchanged and `BR = 0` stores 0 (the spec marks
the range and the consequences as its own inferences). -/
def Obligations.BrightnessLawIsExact : Prop :=
  (∀ br x : Byte, (bright br x).toNat = x.toNat / (256 / (br.toNat + 1))) ∧
  (∀ br x : Byte, 128 ≤ br.toNat → bright br x = x) ∧
  (∀ x : Byte, bright 0#8 x = 0#8)

/-- 40_color_pipeline.md R112, R114 (`scale8` is the spec's general knowledge G1, D8): with `GAMMA_EN` green
is `(x * 176) >> 8` and blue `(x * 240) >> 8`, at most 175 and 239; without it both are the identity. -/
def Obligations.GammaLawIsExact : Prop :=
  ∀ (c : Config) (x : Byte),
    (c.gamma = true → (gammaGreen c x).toNat = x.toNat * 176 / 256 ∧ (gammaGreen c x).toNat ≤ 175 ∧
      (gammaBlue c x).toNat = x.toNat * 240 / 256 ∧ (gammaBlue c x).toNat ≤ 239) ∧
    (c.gamma = false → gammaGreen c x = x ∧ gammaBlue c x = x)

/-- 40_color_pipeline.md R113 (the order of brightness and gamma is D10, the white byte D11): the three
colour bytes of the record of pixel `index mod N`, in wire order; every other byte of `CB` and all other
state unchanged; always `OK`, in either engine state. -/
def Obligations.SetPixelRgbStoresTheScaledColour : Prop :=
  ∀ (index : Index) (r g b : Byte) (s : State), ∃ t, exec (.setPixelRgb index r g b) s = .next t ∧
    t.reply = some (.status .ok) ∧ ColourFrame s t ∧
    (s.cfg.order = .grb →
      t.cbByte (recordAddress s.cfg.toConfig (pixelOf s.cfg.toConfig index) 0) =
        gammaGreen s.cfg.toConfig (bright s.br g) ∧
      t.cbByte (recordAddress s.cfg.toConfig (pixelOf s.cfg.toConfig index) 1) = bright s.br r) ∧
    (s.cfg.order = .rgb →
      t.cbByte (recordAddress s.cfg.toConfig (pixelOf s.cfg.toConfig index) 0) = bright s.br r ∧
      t.cbByte (recordAddress s.cfg.toConfig (pixelOf s.cfg.toConfig index) 1) =
        gammaGreen s.cfg.toConfig (bright s.br g)) ∧
    t.cbByte (recordAddress s.cfg.toConfig (pixelOf s.cfg.toConfig index) 2) =
      gammaBlue s.cfg.toConfig (bright s.br b) ∧
    ∀ k, (∀ j < 3, k ≠ recordAddress s.cfg.toConfig (pixelOf s.cfg.toConfig index) j) →
      t.cbByte k = s.cbByte k

/-- 40_color_pipeline.md R115, R116 (the sector table is the spec's general knowledge G2, D9; the ranges are
the spec's inferences): `sat = 0` and `val = 0` are degenerate; the sector of a hue is one of six; `rem` is
at most 252; and the results `p`, `q`, `t` are the exact integers of the formulas, at most 254, in the place
the table gives them. -/
def Obligations.HsvConversionIsExact : Prop :=
  (∀ hue val : Byte, hsv2rgb hue 0#8 val = (val, val, val)) ∧
  (∀ hue sat : Byte, hsv2rgb hue sat 0#8 = (0#8, 0#8, 0#8)) ∧
  (∀ hue sat val : Byte, sat ≠ 0#8 → ∃ (rem : Nat) (p q t : Byte),
    rem = (hue.toNat - 43 * (hue.toNat / 43)) * 6 ∧ rem ≤ 252 ∧
    p.toNat = val.toNat * (255 - sat.toNat) / 256 ∧
    q.toNat = val.toNat * (255 - sat.toNat * rem / 256) / 256 ∧
    t.toNat = val.toNat * (255 - sat.toNat * (255 - rem) / 256) / 256 ∧
    p.toNat ≤ 254 ∧ q.toNat ≤ 254 ∧ t.toNat ≤ 254 ∧
    (hue.toNat / 43 = 0 → hsv2rgb hue sat val = (val, t, p)) ∧
    (hue.toNat / 43 = 1 → hsv2rgb hue sat val = (q, val, p)) ∧
    (hue.toNat / 43 = 2 → hsv2rgb hue sat val = (p, val, t)) ∧
    (hue.toNat / 43 = 3 → hsv2rgb hue sat val = (p, q, val)) ∧
    (hue.toNat / 43 = 4 → hsv2rgb hue sat val = (t, p, val)) ∧
    (hue.toNat / 43 = 5 → hsv2rgb hue sat val = (val, p, q)) ∧ hue.toNat / 43 ≤ 5)

/-- 40_color_pipeline.md R117: the operation is the conversion followed by `setPixelRGB`, and completes with
`OK` in every state, writing the three colour bytes of one record only; a grey colour (`sat = 0`) is
`setPixelRGB(index, val, val, val)` whatever the hue. -/
def Obligations.SetPixelHsvDelegatesToSetPixelRgb : Prop :=
  ∀ (index : Index) (hue sat val : Byte) (s : State),
    (∃ t, exec (.setPixelHsv index hue sat val) s = .next t ∧ t.reply = some (.status .ok) ∧
      ColourFrame s t ∧
      (∀ k, (∀ j < 3, k ≠ recordAddress s.cfg.toConfig (pixelOf s.cfg.toConfig index) j) →
        t.cbByte k = s.cbByte k) ∧
      exec (.setPixelRgb index (hsv2rgb hue sat val).1 (hsv2rgb hue sat val).2.1
        (hsv2rgb hue sat val).2.2) s = .next t) ∧
    exec (.setPixelHsv index hue 0#8 val) s = exec (.setPixelRgb index val val val) s

/-- 40_color_pipeline.md R119: on a 4-channel configuration the white byte of the record of pixel
`index mod N` is the brightness-scaled operand, without gamma, and nothing else changes; on a 3-channel one
the answer is `ParamError` and no state is written. With the rule's encoding and its example. -/
def Obligations.SetPixelWhiteStoresTheWhiteByte : Prop :=
  (∀ (index : Index) (w : Byte) (s : State), s.cfg.channels = 4 →
    ∃ t, exec (.setPixelWhite index w) s = .next t ∧ t.reply = some (.status .ok) ∧ ColourFrame s t ∧
      t.cbByte (4 * (index.toNat % s.cfg.pixelCount) + 3) = bright s.br w ∧
      ∀ k, k ≠ 4 * (index.toNat % s.cfg.pixelCount) + 3 → t.cbByte k = s.cbByte k) ∧
  (∀ (index : Index) (w : Byte) (s : State), s.cfg.channels = 3 →
    exec (.setPixelWhite index w) s = .next { s with reply := some (.status .paramError) }) ∧
  (∀ (index : Index) (w : Byte),
    encode (.setPixelWhite index w) = .command (commandWord 0x05#8 index w 0#8 0#8)) ∧
  (∀ s : State, s.cfg.channels = 4 → s.cfg.pixelCount = 2 → s.br = 127#8 →
    ∃ t, exec (.setPixelWhite 3#16 200#8) s = .next t ∧ t.cbByte 7 = 100#8)

/-- 20_memory.md R56: every operation that takes an index uses `index mod N`; indices that agree modulo `N`
have the same effect, and no index faults. -/
def Obligations.IndexWrapsModuloPixelCount : Prop :=
  ∀ (s : State) (i j : Index), i.toNat % s.cfg.pixelCount = j.toNat % s.cfg.pixelCount →
    (∀ r g b, exec (.setPixelRgb i r g b) s = exec (.setPixelRgb j r g b) s ∧
      ∃ t, exec (.setPixelRgb i r g b) s = .next t) ∧
    (∀ h v x, exec (.setPixelHsv i h v x) s = exec (.setPixelHsv j h v x) s ∧
      ∃ t, exec (.setPixelHsv i h v x) s = .next t) ∧
    (∀ w, exec (.setPixelWhite i w) s = exec (.setPixelWhite j w) s ∧
      ∃ t, exec (.setPixelWhite i w) s = .next t)

/-- 40_color_pipeline.md R121: the single-pixel operation applied to every index; every pixel gets the same
stored colour, the bytes `setPixelRGB` gives that pixel; every other byte (the white bytes of a 4-channel
configuration) is unchanged; always `OK`. With the rule's encoding and its example. -/
def Obligations.FillRgbStoresEveryPixel : Prop :=
  (∀ (r g b : Byte) (s : State), ∃ t, exec (.fillRgb r g b) s = .next t ∧
    t.reply = some (.status .ok) ∧ ColourFrame s t ∧
    (∀ i < s.cfg.pixelCount,
      t.cbByte (recordAddress s.cfg.toConfig i 0) = (storedColour s.cfg.toConfig s.br r g b).1 ∧
      t.cbByte (recordAddress s.cfg.toConfig i 1) = (storedColour s.cfg.toConfig s.br r g b).2.1 ∧
      t.cbByte (recordAddress s.cfg.toConfig i 2) = (storedColour s.cfg.toConfig s.br r g b).2.2) ∧
    (∀ k, (∀ i < s.cfg.pixelCount, ∀ j < 3, k ≠ recordAddress s.cfg.toConfig i j) →
      t.cbByte k = s.cbByte k) ∧
    ∀ (index : Index) (u : State), index.toNat < s.cfg.pixelCount →
      exec (.setPixelRgb index r g b) s = .next u →
      ∀ j < s.cfg.channels, t.cbByte (recordAddress s.cfg.toConfig index.toNat j) =
        u.cbByte (recordAddress s.cfg.toConfig index.toNat j)) ∧
  (∀ r g b : Byte, encode (.fillRgb r g b) = .command (commandWord 0x06#8 0#16 r g b)) ∧
  (∀ s : State, s.cfg.pixelCount = 2 → s.cfg.channels = 3 → s.cfg.order = .rgb → s.br = 255#8 →
    s.cfg.gamma = false →
    ∃ t, exec (.fillRgb 1#8 2#8 3#8) s = .next t ∧
      (List.range 6).map t.cbByte = [1#8, 2#8, 3#8, 1#8, 2#8, 3#8])

/-- 40_color_pipeline.md R122: the fill stores, for every pixel, the same bytes as `setPixelHSV` for that
pixel alone; it is `fillRGB` of the colour converted once, and always answers `OK`. With the rule's encoding
and its example. -/
def Obligations.FillHsvEqualsPerPixelSetPixelHsv : Prop :=
  (∀ (hue sat val : Byte) (s : State), ∃ t, exec (.fillHsv hue sat val) s = .next t ∧
    t.reply = some (.status .ok) ∧ ColourFrame s t ∧
    (∀ k, (∀ i < s.cfg.pixelCount, ∀ j < 3, k ≠ recordAddress s.cfg.toConfig i j) →
      t.cbByte k = s.cbByte k) ∧
    exec (.fillRgb (hsv2rgb hue sat val).1 (hsv2rgb hue sat val).2.1 (hsv2rgb hue sat val).2.2) s =
      .next t ∧
    ∀ (index : Index) (u : State), index.toNat < s.cfg.pixelCount →
      exec (.setPixelHsv index hue sat val) s = .next u →
      ∀ j < s.cfg.channels, t.cbByte (recordAddress s.cfg.toConfig index.toNat j) =
        u.cbByte (recordAddress s.cfg.toConfig index.toNat j)) ∧
  (∀ hue sat val : Byte, encode (.fillHsv hue sat val) = .command (commandWord 0x07#8 0#16 hue sat val)) ∧
  (∀ s : State, s.cfg.pixelCount = 2 → s.cfg.channels = 3 → s.cfg.order = .grb → s.br = 255#8 →
    s.cfg.gamma = false →
    ∃ t, exec (.fillHsv 0#8 255#8 255#8) s = .next t ∧
      (List.range 6).map t.cbByte = [0#8, 255#8, 0#8, 0#8, 255#8, 0#8])

/-- 40_color_pipeline.md R123 (the answer on 3 channels is D21): on 4 channels the white byte of every pixel
becomes the brightness-scaled operand and nothing else changes; on 3 channels `ParamError` and nothing is
written. -/
def Obligations.FillWhiteStoresEveryWhiteByte : Prop :=
  (∀ (w : Byte) (s : State), s.cfg.channels = 4 → ∃ t, exec (.fillWhite w) s = .next t ∧
    t.reply = some (.status .ok) ∧ ColourFrame s t ∧
    (∀ i < s.cfg.pixelCount, t.cbByte (4 * i + 3) = bright s.br w) ∧
    ∀ k, (∀ i < s.cfg.pixelCount, k ≠ 4 * i + 3) → t.cbByte k = s.cbByte k) ∧
  (∀ (w : Byte) (s : State), s.cfg.channels = 3 →
    exec (.fillWhite w) s = .next { s with reply := some (.status .paramError) })

/-- 40_color_pipeline.md R125 (the meaning of `clear` is D12): every byte of `CB` is 0 and nothing else
changes; always `OK`; `CB` is as `fillRGB(0, 0, 0)` followed by `fillWhite(0)` leaves it. -/
def Obligations.ClearZeroesTheColourBuffer : Prop :=
  (∀ s : State, ∃ t, exec .clear s = .next t ∧ t.reply = some (.status .ok) ∧ ColourFrame s t ∧
    (∀ k < s.cfg.colourBytes, t.cbByte k = 0#8) ∧
    (∀ k, s.cfg.colourBytes ≤ k → t.cbByte k = s.cbByte k)) ∧
  (∀ s t u v : State, exec .clear s = .next t → exec (.fillRgb 0#8 0#8 0#8) s = .next u →
    exec (.fillWhite 0#8) u = .next v → ∀ k, t.cbByte k = v.cbByte k)

/-- 40_color_pipeline.md R124: the four colour operations and `setBrightness` are total: in every state they
complete with `OK`. -/
def Obligations.ColourOperationsAreTotal : Prop :=
  ∀ s : State,
    (∀ b, ∃ t, exec (.setBrightness b) s = .next t ∧ t.reply = some (.status .ok)) ∧
    (∀ i r g b, ∃ t, exec (.setPixelRgb i r g b) s = .next t ∧ t.reply = some (.status .ok)) ∧
    (∀ i h v x, ∃ t, exec (.setPixelHsv i h v x) s = .next t ∧ t.reply = some (.status .ok)) ∧
    (∀ r g b, ∃ t, exec (.fillRgb r g b) s = .next t ∧ t.reply = some (.status .ok)) ∧
    (∀ h v x, ∃ t, exec (.fillHsv h v x) s = .next t ∧ t.reply = some (.status .ok))

/-- 20_memory.md R63, 93_implementation_defined.md U1, by the model's form of the race (log entry 9): a byte
written by a colour operation during a transfer holds its new value, and what the engine fetches from it
later in that transfer is the old value or the new one; while the engine is `READY` a fetch is exact. -/
def Obligations.BusyWriteIsFetchedOldOrNew : Prop :=
  (∀ (index : Index) (r g b : Byte) (s t : State), s.es = .busy → s.raced = [] →
    exec (.setPixelRgb index r g b) s = .next t →
    ∀ k, t.fetchByte k = s.cbByte k ∨ t.fetchByte k = t.cbByte k) ∧
  (∀ (s : State) (k : Nat), s.fetchByte k = s.cbByte k ∨ s.fetchByte k ∈ s.oldValues k) ∧
  (∀ (s : State) (k : Nat), s.RaceOk → s.es = .ready → s.fetchByte k = s.cbByte k)

/-! ### The Bit Encoder -/

/-- 41_bit_encoder.md R140 (C6; the reading by bits is the spec's inference): eight codes, most-significant
bit first, `HIGH_CODE` for 1 and `LOW_CODE` for 0. -/
def Obligations.EncodeByteIsMsbFirst : Prop :=
  ∀ (c : Config) (v : Byte), (encodeByte c v).length = 8 ∧
    ∀ i < 8, (encodeByte c v)[i]? =
        some (if (v.toNat * 2 ^ i) &&& 0x80 ≠ 0 then c.highCode else c.lowCode) ∧
      (encodeByte c v)[i]? = some (if v.getLsbD (7 - i) = true then c.highCode else c.lowCode)

/-- 41_bit_encoder.md R142, 20_memory.md R51 (the placement is D14): staging pixel `p` into half `h` puts code
`i` of channel position `j` at `h * HALF + 8 * j + i`, leaves the other half and all other state unchanged
(the count of draws is the model's, log entry 9), and keeps the length of `TB`. The byte encoded is the one
the engine fetches: `CB` as it stands where no byte is raced (log entry 9). -/
def Obligations.EncodePixelWritesOneHalf : Prop :=
  ∀ (s : State) (p : Nat) (h : Half), s.tb.length = s.cfg.bufferLength →
    (∀ j < s.cfg.channels, ∀ i < 8,
      (s.encodePixel p h).tb[h.base s.cfg.toConfig + 8 * j + i]? =
        (encodeByte s.cfg.toConfig (s.fetchByte (recordAddress s.cfg.toConfig p j)))[i]?) ∧
    (s.raced = [] → ∀ k, s.fetchByte k = s.cbByte k) ∧
    (∀ k, (k < h.base s.cfg.toConfig ∨ h.base s.cfg.toConfig + s.cfg.half ≤ k) →
      (s.encodePixel p h).tb[k]? = s.tb[k]?) ∧
    (s.encodePixel p h).tb.length = s.cfg.bufferLength ∧
    s.encodePixel p h = { s with tb := (s.encodePixel p h).tb, draws := s.draws + 1 }

/-- 41_bit_encoder.md R143: staging one half of the reset tail sets all `HALF` codes of the half to 0 and
nothing else, whatever the state; the code 0 holds the line low for a whole period. With the rule's
example. -/
def Obligations.ZeroHalfClearsOneHalf : Prop :=
  (∀ (s : State) (h : Half), s.tb.length = s.cfg.bufferLength →
    (∀ k < s.cfg.half, (s.zeroHalf h).tb[h.base s.cfg.toConfig + k]? = some 0) ∧
    (∀ k, (k < h.base s.cfg.toConfig ∨ h.base s.cfg.toConfig + s.cfg.half ≤ k) →
      (s.zeroHalf h).tb[k]? = s.tb[k]?) ∧
    s.zeroHalf h = { s with tb := (s.zeroHalf h).tb }) ∧
  (∀ c : Config, pulseTicks c 0 = (0, c.reloadCount)) ∧
  (∀ s : State, s.cfg.channels = 3 → s.tb.length = s.cfg.bufferLength →
    (s.zeroHalf .second).tb = s.tb.take 24 ++ List.replicate 24 0)

/-- 41_bit_encoder.md R144 (the spec's inference): two different records give two different half contents,
no code of a pixel is 0, and a receiver that reads the symbols of a byte's codes recovers the byte. -/
def Obligations.EncodingIsInjective : Prop :=
  ∀ c : Setup,
    (∀ r₁ r₂ : List Byte, encodeRecord c.toConfig r₁ = encodeRecord c.toConfig r₂ → r₁ = r₂) ∧
    (∀ (r : List Byte), ∀ code ∈ encodeRecord c.toConfig r, code ≠ 0) ∧
    (∀ v : Byte, receivedValue c.toConfig (encodeByte c.toConfig v) = some v.toNat)

/-! ### The Streaming Engine -/

/-- 42_streaming_engine.md R150, 70_reset_and_hazards.md R230 (the meaning of `init` is D13): `ES <- READY`,
`PC <- 0`, `OK`, and no other hardware state written; the ghost history `WIRE` begins anew, as after any reset
(10_state.md R41, R42; DEDUCED, log entry 11); a second `init` changes nothing; while `BUSY` it is refused. -/
def Obligations.InitResetsTheControlState : Prop :=
  (∀ s : State, s.es = .ready → ∃ t, exec .init s = .next t ∧
    t = { s with es := .ready, pc := 0, wire := [], reply := some (.status .ok) } ∧ exec .init t = .next t) ∧
  (∀ s : State, s.es = .busy → exec .init s = .refused .initWhileBusy)

/-- 70_reset_and_hazards.md R230, 10_state.md R42 (`PC = 0` is D5, the Transfer Engine's values D17): `init` is
a reset. From a `READY` state that meets the Transfer Engine's invariants it leaves the values of the reset
table, with `WIRE` empty (DEDUCED, log entry 11); `BR`, `CB` and `TB`, which the table leaves unspecified, are
left as they are (42_streaming_engine.md R150). -/
def Obligations.InitLeavesTheResetState : Prop :=
  ∀ s : State, s.SerializerOk → s.IdleOk → s.es = .ready → ∃ t, exec .init s = .next t ∧
    t.es = .ready ∧ t.pc = 0 ∧ t.teRunning = false ∧ t.tePos = 0 ∧ t.wire = [] ∧ t.event = none ∧
    t.teIdle = true ∧ t.br = s.br ∧ t.cb = s.cb ∧ t.tb = s.tb ∧ t.cfg = s.cfg

/-- 42_streaming_engine.md R151, R152, R159 (the state after a failed start is D15; where the answer of
`te_start` comes from is log entry 6): an accepted `show` sets `ES = BUSY`, stages pixels 0 and 1 as they
stand, overwriting all of `TB`, and sets `PC = 2`. When `te_start` answers ok the Transfer Engine runs from
`TB[0]` and the answer is `OK`; otherwise it does not start and the answer is `TransferStartError`. -/
def Obligations.AcceptedShowStartsATransfer : Prop :=
  ∀ s : State, s.es = .ready → s.teRunning = false → ∃ t, exec .trigger s = .next t ∧
    t.es = .busy ∧ t.pc = 2 ∧ t.tb = s.encodedPixel 0 ++ s.encodedPixel 1 ∧
    t.tb.length = s.cfg.bufferLength ∧
    (∀ answers, s.startAnswers = true :: answers →
      t.teRunning = true ∧ t.tePos = 0 ∧ t.reply = some (.status .ok) ∧ t.startAnswers = answers) ∧
    (∀ answers, s.startAnswers = false :: answers →
      t.teRunning = false ∧ t.tePos = s.tePos ∧ t.reply = some (.status .transferStartError) ∧
      t.startAnswers = answers) ∧
    (t.teRunning = true ∧ t.reply = some (.status .ok) ∨
      t.teRunning = false ∧ t.reply = some (.status .transferStartError)) ∧
    t = { s with es := .busy, pc := 2, tb := t.tb, teRunning := t.teRunning, tePos := t.tePos,
                 reply := t.reply, startAnswers := t.startAnswers, raced := [], draws := t.draws }

/-- 42_streaming_engine.md R153: `show` on a busy engine, or with the Transfer Engine not idle, answers
`Busy` and performs no work: no field of the state but the answer changes, and the Transfer Engine is not
called. -/
def Obligations.BusyShowPerformsNoWork : Prop :=
  ∀ s : State, (s.es = .busy ∨ s.teIdle = false) →
    exec .trigger s = .next { s with reply := some (.status .busy) }

/-- 42_streaming_engine.md R160: `isReady` returns `ES` and writes nothing, in any state; right after an
accepted `show` it returns `BUSY`; `READY` alone does not promise that the next `show` is accepted, with the
reference serializer (the premise `SerializerOk`) it does. With the rule's encoding. -/
def Obligations.IsReadyReturnsTheEngineState : Prop :=
  (∀ s : State, exec .isReady s = .next { s with reply := some (.engine s.es) }) ∧
  (encode .isReady = .command (commandWord 0x0A#8 0#16 0#8 0#8 0#8)) ∧
  (∀ s t u : State, s.es = .ready → s.teIdle = true → exec .trigger s = .next t →
    exec .isReady t = .next u → u.reply = some (.engine .busy)) ∧
  (∀ s : State, s.es = .ready → s.teIdle = false →
    exec .trigger s = .next { s with reply := some (.status .busy) }) ∧
  (∀ s : State, s.SerializerOk → s.es = .ready → exec .trigger s = .next s.startTransfer)

/-- 42_streaming_engine.md R154: in a transfer the callback stages the pixel at the cursor into half 0, or
one zero half, and advances the cursor, or does nothing when the cursor is at `N + 2`; it reads and writes
no flag. With the rule's encoding and its example. (Where a byte of the pixel is raced, the record fetched is
log entry 9's.) -/
def Obligations.EvHalfRefillsTheFirstHalf : Prop :=
  (∀ s : State, s.inTransfer = true → s.pc < s.cfg.pixelCount →
    ∃ t, exec .evHalf s = .next t ∧ t.pc = s.pc + 1 ∧
      t.tb = encodeRecord s.cfg.toConfig (s.fetchRecord s.pc) ++ s.tb.drop s.cfg.half ∧
      (s.raced = [] → s.fetchRecord s.pc = s.record s.pc) ∧
      t = { s with pc := s.pc + 1, tb := t.tb, draws := t.draws }) ∧
  (∀ s : State, s.inTransfer = true → s.cfg.pixelCount ≤ s.pc → s.pc < s.cfg.pixelCount + 2 →
    exec .evHalf s = .next { s with pc := s.pc + 1, tb := List.replicate s.cfg.half 0 ++ s.tb.drop s.cfg.half }) ∧
  (∀ s : State, s.inTransfer = true → s.cfg.pixelCount + 2 ≤ s.pc → exec .evHalf s = .next s) ∧
  encode .evHalf = .event 0#1 ∧
  (∀ s : State, s.inTransfer = true → s.raced = [] → s.cfg.pixelCount = 3 → s.cfg.channels = 3 →
    s.pc = 2 → s.record 2 = [0#8, 0#8, 255#8] → ∃ t, exec .evHalf s = .next t ∧ t.pc = 3 ∧
      t.tb.take 24 = List.replicate 16 s.cfg.lowCode ++ List.replicate 8 s.cfg.highCode)

/-- 42_streaming_engine.md R157: the refill cases of the full-consumed callback write half 1 only, with the
record of pixel `PC` or with zeros, advance the cursor by one, and leave `ES = BUSY` and the Transfer Engine
running. (Where a byte of the pixel is raced, the record fetched is log entry 9's.) -/
def Obligations.EvFullRefillsTheSecondHalf : Prop :=
  (∀ s : State, s.inTransfer = true → s.pc < s.cfg.pixelCount →
    ∃ t, exec .evFull s = .next t ∧ t.pc = s.pc + 1 ∧ t.es = .busy ∧ t.teRunning = true ∧
      t.tb = s.tb.take s.cfg.half ++ encodeRecord s.cfg.toConfig (s.fetchRecord s.pc) ∧
      (s.raced = [] → s.fetchRecord s.pc = s.record s.pc) ∧
      t = { s with pc := s.pc + 1, tb := t.tb, draws := t.draws }) ∧
  (∀ s : State, s.inTransfer = true → s.cfg.pixelCount ≤ s.pc → s.pc < s.cfg.pixelCount + 2 →
    ∃ t, exec .evFull s = .next t ∧ t.es = .busy ∧ t.teRunning = true ∧
      t = { s with pc := s.pc + 1, tb := s.tb.take s.cfg.half ++ List.replicate s.cfg.half 0 })

/-- 42_streaming_engine.md R156, R158 (that the callbacks cease to be registered is D17): the full-consumed
event that finds the cursor at `N + 2` stops the Transfer Engine, sets `PC = 0` and `ES = READY` in one step,
and writes neither `TB` nor `CB` (what was raced is forgotten, log entry 9). -/
def Obligations.EvFullTerminatesTheTransfer : Prop :=
  ∀ s : State, s.inTransfer = true → s.cfg.pixelCount + 2 ≤ s.pc →
    exec .evFull s = .next { s with teRunning := false, pc := 0, es := .ready, raced := [] }

/-- 60_exceptions.md R211 (D16): an event outside a transfer, or after a failed start, is refused. -/
def Obligations.EventOutsideTransferIsRefused : Prop :=
  ∀ s : State, (s.es = .ready ∨ s.teRunning = false) →
    exec .evHalf s = .refused .eventOutsideTransfer ∧ exec .evFull s = .refused .eventOutsideTransfer

/-- 42_streaming_engine.md R155, 20_memory.md R64 (the spec's inference): a callback never writes a code of
the half the Transfer Engine is emitting: delivering the event raised after half 0 leaves half 1 as it was,
and the other way round, raced bytes or not. -/
def Obligations.CallbackWritesOnlyTheHalfNotEmitted : Prop :=
  ∀ s t : State, s.BufferOk → step s = .next t →
    (s.event = some 0#1 → t.halfCodes .second = s.halfCodes .second) ∧
    (s.event = some 1#1 → t.halfCodes .first = s.halfCodes .first)

/-- 20_memory.md R58, 42_streaming_engine.md R152, 60_exceptions.md R209: what the engine reads of `CB`. A
callback's effect depends on the record of pixel `PC` alone, and `show` on the records of pixels 0 and 1
alone: change any other byte of `CB` and everything else comes out the same. -/
def Obligations.EngineReadsOnlyTheStagedRecords : Prop :=
  (∀ (s t : State) (m : Memory), s.raced = [] →
    (∀ j < s.cfg.channels, ({ s with cb := m } : State).cbByte (recordAddress s.cfg.toConfig s.pc j) =
      s.cbByte (recordAddress s.cfg.toConfig s.pc j)) →
    (exec .evHalf s = .next t → exec .evHalf { s with cb := m } = .next { t with cb := m }) ∧
    (exec .evFull s = .next t → exec .evFull { s with cb := m } = .next { t with cb := m })) ∧
  (∀ (s t : State) (m : Memory),
    (∀ p < 2, ∀ j < s.cfg.channels, ({ s with cb := m } : State).cbByte (recordAddress s.cfg.toConfig p j) =
      s.cbByte (recordAddress s.cfg.toConfig p j)) →
    exec .trigger s = .next t → exec .trigger { s with cb := m } = .next { t with cb := m })

/-! ### Whole-machine rules -/

/-- 10_state.md R31: how each operation and event advances `PC`, the complete list; in every state that meets
the control invariant of 42_streaming_engine.md R170. -/
def Obligations.CursorIsWrittenOnlyAsListed : Prop :=
  (∀ (i : Instr) (s t : State), s.ControlOk → exec i s = .next t →
    t.pc = match i with
      | .trigger => if s.es = .ready ∧ s.teIdle = true then 2 else s.pc
      | .evHalf => if s.pc < s.cfg.pixelCount + 2 then s.pc + 1 else s.pc
      | .evFull => if s.pc < s.cfg.pixelCount + 2 then s.pc + 1 else 0
      | .init => s.pc
      | .clear => s.pc
      | .setBrightness _ => s.pc
      | .setPixelRgb _ _ _ _ => s.pc
      | .setPixelHsv _ _ _ _ => s.pc
      | .setPixelWhite _ _ => s.pc
      | .fillRgb _ _ _ => s.pc
      | .fillHsv _ _ _ => s.pc
      | .fillWhite _ => s.pc
      | .isReady => s.pc) ∧
  (∀ s t : State, s.fetched = none → step s = .next t → t.pc = s.pc)

/-- 10_state.md R33: `ES` is created `READY`, becomes `BUSY` by an accepted `show` and by nothing else, and
returns to `READY` by the full-consumed callback that finds both tail halves staged and by nothing else; no
emission changes it. -/
def Obligations.EngineStateHasNoOtherTransitions : Prop :=
  (∀ c : Setup, (State.created c).es = .ready) ∧
  (∀ (i : Instr) (s t : State), exec i s = .next t →
    ((s.es = .ready ∧ t.es = .busy) ↔ (i = .trigger ∧ s.es = .ready ∧ s.teIdle = true)) ∧
    ((s.es = .busy ∧ t.es = .ready) ↔ (i = .evFull ∧ s.cfg.pixelCount + 2 ≤ s.pc))) ∧
  (∀ s t : State, s.fetched = none → step s = .next t → t.es = s.es)

/-- 10_state.md R26, R23, R36, 20_memory.md R58: who may write what. `TB` is written only by `show`, and by
the callbacks each in its own half; `CB` only by the Color Pipeline operations; `BR` only by
`setBrightness`; no instruction writes `WIRE`, but `init`, being a reset, empties it (10_state.md R41, log
entry 11). -/
def Obligations.BuffersHaveOnlyTheirWriters : Prop :=
  ∀ (i : Instr) (s t : State), exec i s = .next t →
    (t.tb = s.tb ∨ i = .trigger ∨ i = .evHalf ∨ i = .evFull) ∧
    (i = .evHalf → t.tb.drop s.cfg.half = s.tb.drop s.cfg.half) ∧
    (i = .evFull → s.tb.length = s.cfg.bufferLength → t.tb.take s.cfg.half = s.tb.take s.cfg.half) ∧
    (t.cb = s.cb ∨ i.writesColourBuffer = true) ∧
    (t.br = s.br ∨ ∃ b, i = .setBrightness b) ∧
    t.wire = if i = .init then [] else s.wire

/-- 70_reset_and_hazards.md R231: the configuration is fixed at the creation of the instance and no step
changes it. -/
def Obligations.ConfigurationNeverChanges : Prop :=
  (∀ c : Setup, (State.created c).cfg = c) ∧ (∀ s t : State, step s = .next t → t.cfg = s.cfg)

/-- 60_exceptions.md R203: which operation can return which status. Whatever an instruction answers in a next
state is an answer the table allows it, so the Color Pipeline operations never answer `Busy`. Of the table's
"yes" entries this statement shows the three of `show`, and that `clear`, `setPixelWhite` and `fillWhite` answer
a next state in every state; the others are shown elsewhere: `init` in `InitResetsTheControlState`,
`setBrightness` and the colour operations in `ColourOperationsAreTotal`, `isReady` in
`IsReadyReturnsTheEngineState`. The answer of `fillWhite` on 3 channels is D21 (log entry 25); that events leave
the answer is log entry 23. -/
def Obligations.StatusTableHolds : Prop :=
  (∀ (i : Instr) (s t : State), exec i s = .next t →
    match i with
    | .init | .clear | .setBrightness _ | .setPixelRgb _ _ _ _ | .setPixelHsv _ _ _ _
    | .fillRgb _ _ _ | .fillHsv _ _ _ => t.reply = some (.status .ok)
    | .setPixelWhite _ _ | .fillWhite _ =>
      (s.cfg.channels = 4 → t.reply = some (.status .ok)) ∧
      (s.cfg.channels = 3 → t.reply = some (.status .paramError))
    | .trigger => t.reply = some (.status .ok) ∨ t.reply = some (.status .busy) ∨
        t.reply = some (.status .transferStartError)
    | .isReady => t.reply = some (.engine s.es)
    | .evHalf | .evFull => t.reply = s.reply) ∧
  (∀ r : Status, r ≠ .paramError →
    ∃ s t, exec .trigger s = .next t ∧ t.reply = some (.status r)) ∧
  (∀ (s : State), (∃ t, exec .clear s = .next t) ∧ (∀ x w, ∃ t, exec (.setPixelWhite x w) s = .next t) ∧
    ∀ w, ∃ t, exec (.fillWhite w) s = .next t)

/-- 30_encoding.md R88, 60_exceptions.md R201 (the numbers are D20 and D29): the 2-bit code of every answer on
the command port; `isReady` never answers 2 or 3. -/
def Obligations.StatusCodesFollowTheTable : Prop :=
  (Reply.status .ok).code = 0#2 ∧ (Reply.status .busy).code = 1#2 ∧ (Reply.status .paramError).code = 2#2 ∧
  (Reply.status .transferStartError).code = 3#2 ∧
  (Reply.engine .busy).code = 0#2 ∧ (Reply.engine .ready).code = 1#2 ∧
  (∀ s t : State, exec .isReady s = .next t → ∃ r, t.reply = some r ∧ r.code ≠ 2#2 ∧ r.code ≠ 3#2)

/-- 42_streaming_engine.md R172: at most one transfer. From `BUSY`, a step leaves the engine `BUSY` unless it
delivers the full-consumed event that ends the transfer, and meanwhile every `show` answers `Busy` and starts
nothing. -/
def Obligations.AtMostOneTransferInFlight : Prop :=
  ∀ s t : State, s.es = .busy → step s = .next t →
    (t.es = .busy ∨ (s.event = some 1#1 ∧ s.teRunning = true ∧ s.cfg.pixelCount + 2 ≤ s.pc)) ∧
    exec .trigger s = .next { s with reply := some (.status .busy) }

/-- 42_streaming_engine.md R159, R173 (D15): after a failed start nothing brings the engine back: no step
leaves `BUSY`, starts the Transfer Engine, raises an event or emits a code. -/
def Obligations.FailedStartLeavesTheEngineBusy : Prop :=
  ∀ s t : State, s.es = .busy → s.teRunning = false → s.event = none → step s = .next t →
    t.es = .busy ∧ t.teRunning = false ∧ t.event = none ∧ t.wire = s.wire ∧ t.tb = s.tb ∧ t.pc = s.pc

/-- 10_state.md R41, R27, R91: since a reset `WIRE` only grows, by at most one code a step, and during a
transfer every code that goes out is `0`, `LOW_CODE` or `HIGH_CODE`; the one step that does not leave `WIRE` as
it was or let it grow is a command that decodes to `init`, which is a reset and empties it (log entry 11). The
premises are parts of the invariant. -/
def Obligations.WireGrowsByLegalCodes : Prop :=
  ∀ s t : State, s.SerializerOk → s.CodesOk → step s = .next t →
    t.wire = s.wire ∨ (∃ code, s.cfg.toConfig.isCode code ∧ t.wire = s.wire ++ [code]) ∨
    (t.wire = [] ∧ s.event = none ∧ ∃ w rest, s.inputs = .command w :: rest ∧ decodeCommand w = .ok .init)

/-! ### Configuration and reset -/

/-- 00_scope.md R9, R8 (that an illegal configuration is refused is D4, D30): an instance is created exactly
for the legal configurations; in a legal one the three codes are distinct and `TB` has 48 or 64 codes. -/
def Obligations.IllegalConfigurationIsRefused : Prop :=
  (∀ c : Config, (2 ≤ c.pixelCount ∧ (c.channels = 3 ∨ c.channels = 4) ∧ 0 < c.lowCode ∧
      c.lowCode < c.highCode ∧ c.highCode < c.reloadCount ∧ c.reloadCount ≤ 2 ^ c.codeWidth) ↔
    ∃ s, construct c = .next s ∧ s.cfg.toConfig = c) ∧
  (∀ c : Config, c.legal = false → construct c = .refused .illegalConfiguration) ∧
  (∀ c : Setup, c.lowCode ≠ c.highCode ∧ c.lowCode ≠ 0 ∧ c.highCode ≠ 0 ∧
    (c.bufferLength = 48 ∨ c.bufferLength = 64) ∧ c.bufferLength = 2 * c.half)

/-- 10_state.md R42, 70_reset_and_hazards.md R230 (`PC = 0` is D5, the Transfer Engine's values D17): what
the creation of an instance leaves, for every configuration, and `State.reset` is one such state (its
configuration is log entry 1). `BR`, `CB` and `TB` hold free values (log entries 2, 3, 4), of which nothing
is stated but the width of a code. -/
def Obligations.CreationLeavesTheResetState : Prop :=
  (∀ c : Setup, (State.created c).es = .ready ∧ (State.created c).pc = 0 ∧
    (State.created c).teRunning = false ∧ (State.created c).tePos = 0 ∧ (State.created c).wire = [] ∧
    (State.created c).event = none ∧ (State.created c).teIdle = true ∧
    (State.created c).tb.length = c.bufferLength) ∧
  ∃ c, State.reset = State.created c

/-! ### Invariants of every step -/

/-- 10_state.md R21, R39 with the canonical form of the model's memory: no step breaks the form of `CB` or
writes an address outside `[0, N * C)`. -/
def Obligations.ColourBufferStaysCanonical : Prop :=
  ∀ s t : State, s.MemoryOk → step s = .next t → t.MemoryOk

/-- 42_streaming_engine.md R170 (the spec's inference): the control invariant is kept by every step. -/
def Obligations.ControlInvariantIsKept : Prop :=
  ∀ s t : State, s.ControlOk → step s = .next t → t.ControlOk

/-- 42_streaming_engine.md R163 to R171, 43_serializer.md R183 to R185, 10_state.md R25, R27 (inferences of
the spec): the whole invariant of the machine is kept by every step. -/
def Obligations.MachineInvariantIsKept : Prop :=
  ∀ s t : State, s.Inv → step s = .next t → t.Inv

/-- The invariant holds at the creation of every instance, and so at reset (10_state.md R42). -/
def Obligations.MachineInvariantHoldsAtReset : Prop :=
  (∀ c : Setup, (State.created c).Inv) ∧ State.reset.Inv

/-- 10_state.md R42, 43_serializer.md R185, R182 (D17): whenever the engine is `READY` the Transfer Engine
stands at position 0, after every creation and, from a state that meets the invariant, after every step: the
full-consumed event that ends a transfer is raised when the position wraps to 0. -/
def Obligations.TransferEngineRestsAtPositionZero : Prop :=
  (∀ c : Setup, (State.created c).IdleOk) ∧
  ∀ s t : State, s.Inv → s.IdleOk → step s = .next t → t.IdleOk

/-- 42_streaming_engine.md R170, R171, R158 (the spec's inferences): the engine becomes `READY` at, and only
at, a full-consumed event that finds the cursor at `N + 2`, and then every code of `TB` is 0. -/
def Obligations.TransferBufferIsZeroAtTheEnd : Prop :=
  ∀ s t : State, s.Inv → s.es = .busy → step s = .next t → t.es = .ready →
    s.event = some 1#1 ∧ s.pc = s.cfg.pixelCount + 2 ∧ t.pc = 0 ∧ t.teRunning = false ∧
    t.tb = List.replicate s.cfg.bufferLength 0

/-- 00_scope.md R11, 20_memory.md R57, 43_serializer.md R185: in a state that meets the invariant no step
faults. -/
def Obligations.NoStepFaults : Prop :=
  ∀ s : State, s.Inv → ∀ r, step s ≠ .fault r

/-- 00_scope.md R14 (the labels are D32): the phases follow one another: from a state that meets the
invariant a step stays in its phase or goes from idle to armed, from armed to streaming (or, with two pixels,
to the reset tail), from streaming to the reset tail, or from the reset tail to idle. -/
def Obligations.PhasesFollowTheLifecycle : Prop :=
  ∀ s t : State, s.Inv → step s = .next t →
    t.phase = s.phase ∨ (s.phase = .idle ∧ t.phase = .armed) ∨
    (s.phase = .armed ∧ (t.phase = .streaming ∨ s.cfg.pixelCount = 2 ∧ t.phase = .resetTail)) ∨
    (s.phase = .streaming ∧ t.phase = .resetTail) ∨ (s.phase = .resetTail ∧ t.phase = .idle)

/-! ### The frame on the wire -/

/-- 43_serializer.md R190, R191, R185 (the spec's inference; C1): if `show` is accepted, `te_start` answers
ok and the caller keeps the contract, the transfer ends, and the codes appended to `WIRE` during it are
exactly the codes of pixels `0 .. N - 1` followed by `HALF * z` zero codes; `CB` is as it was. -/
def Obligations.FrameAppearsOnTheWire : Prop :=
  ∀ (s : State) (answers : List Bool), s.es = .ready → s.teRunning = false → s.event = none →
    s.startAnswers = true :: answers → (∀ x ∈ s.inputs, x.keepsContract = true) →
    ∃ t n u, exec .trigger s = .next t ∧ t.reply = some (.status .ok) ∧
      Host.Core.run Sys2Proof.core n t = .next u ∧
      u.es = .ready ∧ u.pc = 0 ∧ u.teRunning = false ∧ u.event = none ∧ u.cb = s.cb ∧
      u.wire = s.wire ++ s.frame

/-- 42_streaming_engine.md R166, 43_serializer.md R190 (the spec's inferences): with no further operation of
the caller the transfer takes `HALF` emissions and one event for each of its `2 * (N / 2) + 2` events: the
engine is `BUSY` until then and `READY` after it. -/
def Obligations.TransferTakesItsNumberOfEvents : Prop :=
  ∀ (s : State) (answers : List Bool), s.es = .ready → s.teRunning = false → s.event = none →
    s.startAnswers = true :: answers → s.inputs = [] →
    ∃ t, exec .trigger s = .next t ∧
      (∀ n, n < (s.cfg.half + 1) * transferEvents s.cfg.toConfig →
        ∃ v, Host.Core.run Sys2Proof.core n t = .next v ∧ v.es = .busy) ∧
      ∃ u, Host.Core.run Sys2Proof.core ((s.cfg.half + 1) * transferEvents s.cfg.toConfig) t = .next u ∧
        u.es = .ready ∧ u.wire = s.wire ++ s.frame
end

