-- ==== Sys2Proof/Laws/Encoding.lean ====
section
/-! SUPPORT. The fields of a command word: each field of an assembled word is what was put there, and a word
is the assembly of its fields (30_encoding.md R81). -/

namespace Sys2Proof

/-- The fields of a word, as numbers. -/
theorem opField_toNat (w : CommandWord) : (opField w).toNat = w.toNat / 2 ^ 40 % 2 ^ 8 := by
  rw [opField, BitVec.extractLsb'_toNat, Nat.shiftRight_eq_div_pow]

theorem indexField_toNat (w : CommandWord) : (indexField w).toNat = w.toNat / 2 ^ 24 % 2 ^ 16 := by
  rw [indexField, BitVec.extractLsb'_toNat, Nat.shiftRight_eq_div_pow]

theorem aField_toNat (w : CommandWord) : (aField w).toNat = w.toNat / 2 ^ 16 % 2 ^ 8 := by
  rw [aField, BitVec.extractLsb'_toNat, Nat.shiftRight_eq_div_pow]

theorem bField_toNat (w : CommandWord) : (bField w).toNat = w.toNat / 2 ^ 8 % 2 ^ 8 := by
  rw [bField, BitVec.extractLsb'_toNat, Nat.shiftRight_eq_div_pow]

theorem cField_toNat (w : CommandWord) : (cField w).toNat = w.toNat % 2 ^ 8 := by
  rw [cField, BitVec.extractLsb'_toNat, Nat.shiftRight_zero]

/-- An assembled word, as a number: the fields do not overlap and do not overflow. -/
theorem commandWord_toNat (op : BitVec 8) (index : Index) (a b c : Byte) :
    (commandWord op index a b c).toNat =
      op.toNat * 2 ^ 40 + index.toNat * 2 ^ 24 + a.toNat * 2 ^ 16 + b.toNat * 2 ^ 8 + c.toNat := by
  rw [commandWord, BitVec.toNat_ofNat]
  have := op.isLt; have := index.isLt; have := a.isLt; have := b.isLt; have := c.isLt
  omega

variable (op : BitVec 8) (index : Index) (a b c : Byte)

@[simp] theorem opField_commandWord : opField (commandWord op index a b c) = op := by
  apply BitVec.eq_of_toNat_eq
  rw [opField_toNat, commandWord_toNat]
  have := op.isLt; have := index.isLt; have := a.isLt; have := b.isLt; have := c.isLt
  omega

@[simp] theorem indexField_commandWord : indexField (commandWord op index a b c) = index := by
  apply BitVec.eq_of_toNat_eq
  rw [indexField_toNat, commandWord_toNat]
  have := op.isLt; have := index.isLt; have := a.isLt; have := b.isLt; have := c.isLt
  omega

@[simp] theorem aField_commandWord : aField (commandWord op index a b c) = a := by
  apply BitVec.eq_of_toNat_eq
  rw [aField_toNat, commandWord_toNat]
  have := op.isLt; have := index.isLt; have := a.isLt; have := b.isLt; have := c.isLt
  omega

@[simp] theorem bField_commandWord : bField (commandWord op index a b c) = b := by
  apply BitVec.eq_of_toNat_eq
  rw [bField_toNat, commandWord_toNat]
  have := op.isLt; have := index.isLt; have := a.isLt; have := b.isLt; have := c.isLt
  omega

@[simp] theorem cField_commandWord : cField (commandWord op index a b c) = c := by
  apply BitVec.eq_of_toNat_eq
  rw [cField_toNat, commandWord_toNat]
  have := op.isLt; have := index.isLt; have := a.isLt; have := b.isLt; have := c.isLt
  omega

/-- A word is the assembly of its fields. -/
theorem commandWord_fields (w : CommandWord) :
    commandWord (opField w) (indexField w) (aField w) (bField w) (cField w) = w := by
  apply BitVec.eq_of_toNat_eq
  rw [commandWord_toNat, opField_toNat, indexField_toNat, aField_toNat, bField_toNat, cField_toNat]
  have := w.isLt
  omega

/-- Two words are equal when their five fields are. -/
theorem commandWord_ext_iff {v w : CommandWord} : v = w ↔ opField v = opField w ∧
    indexField v = indexField w ∧ aField v = aField w ∧ bField v = bField w ∧ cField v = cField w := by
  refine ⟨fun h => by subst h; exact ⟨rfl, rfl, rfl, rfl, rfl⟩, fun ⟨ho, hi, ha, hb, hc⟩ => ?_⟩
  rw [← commandWord_fields v, ← commandWord_fields w, ho, hi, ha, hb, hc]

/-- The fields of a masked word are the masked fields. -/
theorem fields_and (v w : CommandWord) : opField (v &&& w) = opField v &&& opField w ∧
    indexField (v &&& w) = indexField v &&& indexField w ∧ aField (v &&& w) = aField v &&& aField w ∧
    bField (v &&& w) = bField v &&& bField w ∧ cField (v &&& w) = cField v &&& cField w := by
  simp only [opField, indexField, aField, bField, cField, BitVec.extractLsb'_and, and_self]

/-- Whether a word is a word of a row, field by field. -/
theorem OpcodeRow.accepts_iff (row : OpcodeRow) (w : CommandWord) : row.accepts w = true ↔
    opField w &&& opField row.mask = opField row.pattern ∧
    indexField w &&& indexField row.mask = indexField row.pattern ∧
    aField w &&& aField row.mask = aField row.pattern ∧
    bField w &&& bField row.mask = bField row.pattern ∧
    cField w &&& cField row.mask = cField row.pattern := by
  obtain ⟨ho, hi, ha, hb, hc⟩ := fields_and w row.mask
  rw [OpcodeRow.accepts, beq_iff_eq, commandWord_ext_iff, ho, hi, ha, hb, hc]

/-- The selector as a bit vector, from its number. -/
theorem opField_eq_of_toNat {w : CommandWord} {n : Nat} (h : (opField w).toNat = n) :
    opField w = BitVec.ofNat 8 n := by
  rw [← h, BitVec.ofNat_toNat, BitVec.setWidth_eq]

/-- An operation with unused fields is decoded exactly when they are zero. -/
theorem ifUnusedZero_eq_ok {z : Bool} {i j : Instr} : ifUnusedZero z i = .ok j ↔ z = true ∧ i = j := by
  cases z <;> simp [ifUnusedZero]

theorem ifUnusedZero_eq_error {z : Bool} {i : Instr} {e : DecodeError} :
    ifUnusedZero z i = .error e ↔ z = false ∧ e = .unusedFieldNotZero := by
  cases z <;> simp [ifUnusedZero, eq_comm]

end Sys2Proof
end

