-- ==== Sys2Proof/Laws/State.lean ====
section
/-! SUPPORT. What each update of the state does to each field, once, so that no later proof unfolds a
record update. -/

namespace Sys2Proof.Machine

@[simp] theorem State.answer_cfg (s : State) (r : Reply) : (s.answer r).cfg = s.cfg := rfl
@[simp] theorem State.answer_cb (s : State) (r : Reply) : (s.answer r).cb = s.cb := rfl
@[simp] theorem State.answer_tb (s : State) (r : Reply) : (s.answer r).tb = s.tb := rfl
@[simp] theorem State.answer_pc (s : State) (r : Reply) : (s.answer r).pc = s.pc := rfl
@[simp] theorem State.answer_es (s : State) (r : Reply) : (s.answer r).es = s.es := rfl
@[simp] theorem State.answer_br (s : State) (r : Reply) : (s.answer r).br = s.br := rfl
@[simp] theorem State.answer_teRunning (s : State) (r : Reply) : (s.answer r).teRunning = s.teRunning := rfl
@[simp] theorem State.answer_tePos (s : State) (r : Reply) : (s.answer r).tePos = s.tePos := rfl
@[simp] theorem State.answer_event (s : State) (r : Reply) : (s.answer r).event = s.event := rfl
@[simp] theorem State.answer_wire (s : State) (r : Reply) : (s.answer r).wire = s.wire := rfl
@[simp] theorem State.answer_reply (s : State) (r : Reply) : (s.answer r).reply = some r := rfl
@[simp] theorem State.answer_inputs (s : State) (r : Reply) : (s.answer r).inputs = s.inputs := rfl
@[simp] theorem State.answer_startAnswers (s : State) (r : Reply) : (s.answer r).startAnswers = s.startAnswers := rfl
@[simp] theorem State.answer_raced (s : State) (r : Reply) : (s.answer r).raced = s.raced := rfl
@[simp] theorem State.answer_draws (s : State) (r : Reply) : (s.answer r).draws = s.draws := rfl

@[simp] theorem State.raiseEvent_cfg (s : State) (e : EventWord) : (s.raiseEvent e).cfg = s.cfg := rfl
@[simp] theorem State.raiseEvent_cb (s : State) (e : EventWord) : (s.raiseEvent e).cb = s.cb := rfl
@[simp] theorem State.raiseEvent_tb (s : State) (e : EventWord) : (s.raiseEvent e).tb = s.tb := rfl
@[simp] theorem State.raiseEvent_pc (s : State) (e : EventWord) : (s.raiseEvent e).pc = s.pc := rfl
@[simp] theorem State.raiseEvent_es (s : State) (e : EventWord) : (s.raiseEvent e).es = s.es := rfl
@[simp] theorem State.raiseEvent_br (s : State) (e : EventWord) : (s.raiseEvent e).br = s.br := rfl
@[simp] theorem State.raiseEvent_teRunning (s : State) (e : EventWord) : (s.raiseEvent e).teRunning = s.teRunning := rfl
@[simp] theorem State.raiseEvent_tePos (s : State) (e : EventWord) : (s.raiseEvent e).tePos = s.tePos := rfl
@[simp] theorem State.raiseEvent_event (s : State) (e : EventWord) : (s.raiseEvent e).event = some e := rfl
@[simp] theorem State.raiseEvent_wire (s : State) (e : EventWord) : (s.raiseEvent e).wire = s.wire := rfl
@[simp] theorem State.raiseEvent_reply (s : State) (e : EventWord) : (s.raiseEvent e).reply = s.reply := rfl
@[simp] theorem State.raiseEvent_inputs (s : State) (e : EventWord) : (s.raiseEvent e).inputs = s.inputs := rfl
@[simp] theorem State.raiseEvent_startAnswers (s : State) (e : EventWord) : (s.raiseEvent e).startAnswers = s.startAnswers := rfl
@[simp] theorem State.raiseEvent_raced (s : State) (e : EventWord) : (s.raiseEvent e).raced = s.raced := rfl
@[simp] theorem State.raiseEvent_draws (s : State) (e : EventWord) : (s.raiseEvent e).draws = s.draws := rfl

@[simp] theorem State.takeEvent_cfg (s : State) : (s.takeEvent).cfg = s.cfg := rfl
@[simp] theorem State.takeEvent_cb (s : State) : (s.takeEvent).cb = s.cb := rfl
@[simp] theorem State.takeEvent_tb (s : State) : (s.takeEvent).tb = s.tb := rfl
@[simp] theorem State.takeEvent_pc (s : State) : (s.takeEvent).pc = s.pc := rfl
@[simp] theorem State.takeEvent_es (s : State) : (s.takeEvent).es = s.es := rfl
@[simp] theorem State.takeEvent_br (s : State) : (s.takeEvent).br = s.br := rfl
@[simp] theorem State.takeEvent_teRunning (s : State) : (s.takeEvent).teRunning = s.teRunning := rfl
@[simp] theorem State.takeEvent_tePos (s : State) : (s.takeEvent).tePos = s.tePos := rfl
@[simp] theorem State.takeEvent_event (s : State) : (s.takeEvent).event = none := rfl
@[simp] theorem State.takeEvent_wire (s : State) : (s.takeEvent).wire = s.wire := rfl
@[simp] theorem State.takeEvent_reply (s : State) : (s.takeEvent).reply = s.reply := rfl
@[simp] theorem State.takeEvent_inputs (s : State) : (s.takeEvent).inputs = s.inputs := rfl
@[simp] theorem State.takeEvent_startAnswers (s : State) : (s.takeEvent).startAnswers = s.startAnswers := rfl
@[simp] theorem State.takeEvent_raced (s : State) : (s.takeEvent).raced = s.raced := rfl
@[simp] theorem State.takeEvent_draws (s : State) : (s.takeEvent).draws = s.draws := rfl

@[simp] theorem State.storeByte_cfg (s : State) (k : Nat) (v : Byte) : (s.storeByte k v).cfg = s.cfg := rfl
@[simp] theorem State.storeByte_cb (s : State) (k : Nat) (v : Byte) : (s.storeByte k v).cb = s.cb.write k v := rfl
@[simp] theorem State.storeByte_tb (s : State) (k : Nat) (v : Byte) : (s.storeByte k v).tb = s.tb := rfl
@[simp] theorem State.storeByte_pc (s : State) (k : Nat) (v : Byte) : (s.storeByte k v).pc = s.pc := rfl
@[simp] theorem State.storeByte_es (s : State) (k : Nat) (v : Byte) : (s.storeByte k v).es = s.es := rfl
@[simp] theorem State.storeByte_br (s : State) (k : Nat) (v : Byte) : (s.storeByte k v).br = s.br := rfl
@[simp] theorem State.storeByte_teRunning (s : State) (k : Nat) (v : Byte) : (s.storeByte k v).teRunning = s.teRunning := rfl
@[simp] theorem State.storeByte_tePos (s : State) (k : Nat) (v : Byte) : (s.storeByte k v).tePos = s.tePos := rfl
@[simp] theorem State.storeByte_event (s : State) (k : Nat) (v : Byte) : (s.storeByte k v).event = s.event := rfl
@[simp] theorem State.storeByte_wire (s : State) (k : Nat) (v : Byte) : (s.storeByte k v).wire = s.wire := rfl
@[simp] theorem State.storeByte_reply (s : State) (k : Nat) (v : Byte) : (s.storeByte k v).reply = s.reply := rfl
@[simp] theorem State.storeByte_inputs (s : State) (k : Nat) (v : Byte) : (s.storeByte k v).inputs = s.inputs := rfl
@[simp] theorem State.storeByte_startAnswers (s : State) (k : Nat) (v : Byte) : (s.storeByte k v).startAnswers = s.startAnswers := rfl
@[simp] theorem State.storeByte_draws (s : State) (k : Nat) (v : Byte) : (s.storeByte k v).draws = s.draws := rfl

@[simp] theorem State.storeColour_cfg (s : State) (i : Nat) (r g b : Byte) : (s.storeColour i r g b).cfg = s.cfg := rfl
@[simp] theorem State.storeColour_tb (s : State) (i : Nat) (r g b : Byte) : (s.storeColour i r g b).tb = s.tb := rfl
@[simp] theorem State.storeColour_pc (s : State) (i : Nat) (r g b : Byte) : (s.storeColour i r g b).pc = s.pc := rfl
@[simp] theorem State.storeColour_es (s : State) (i : Nat) (r g b : Byte) : (s.storeColour i r g b).es = s.es := rfl
@[simp] theorem State.storeColour_br (s : State) (i : Nat) (r g b : Byte) : (s.storeColour i r g b).br = s.br := rfl
@[simp] theorem State.storeColour_teRunning (s : State) (i : Nat) (r g b : Byte) : (s.storeColour i r g b).teRunning = s.teRunning := rfl
@[simp] theorem State.storeColour_tePos (s : State) (i : Nat) (r g b : Byte) : (s.storeColour i r g b).tePos = s.tePos := rfl
@[simp] theorem State.storeColour_event (s : State) (i : Nat) (r g b : Byte) : (s.storeColour i r g b).event = s.event := rfl
@[simp] theorem State.storeColour_wire (s : State) (i : Nat) (r g b : Byte) : (s.storeColour i r g b).wire = s.wire := rfl
@[simp] theorem State.storeColour_reply (s : State) (i : Nat) (r g b : Byte) : (s.storeColour i r g b).reply = s.reply := rfl
@[simp] theorem State.storeColour_inputs (s : State) (i : Nat) (r g b : Byte) : (s.storeColour i r g b).inputs = s.inputs := rfl
@[simp] theorem State.storeColour_startAnswers (s : State) (i : Nat) (r g b : Byte) : (s.storeColour i r g b).startAnswers = s.startAnswers := rfl
@[simp] theorem State.storeColour_draws (s : State) (i : Nat) (r g b : Byte) : (s.storeColour i r g b).draws = s.draws := rfl

@[simp] theorem State.storeWhite_cfg (s : State) (i : Nat) (w : Byte) : (s.storeWhite i w).cfg = s.cfg := rfl
@[simp] theorem State.storeWhite_tb (s : State) (i : Nat) (w : Byte) : (s.storeWhite i w).tb = s.tb := rfl
@[simp] theorem State.storeWhite_pc (s : State) (i : Nat) (w : Byte) : (s.storeWhite i w).pc = s.pc := rfl
@[simp] theorem State.storeWhite_es (s : State) (i : Nat) (w : Byte) : (s.storeWhite i w).es = s.es := rfl
@[simp] theorem State.storeWhite_br (s : State) (i : Nat) (w : Byte) : (s.storeWhite i w).br = s.br := rfl
@[simp] theorem State.storeWhite_teRunning (s : State) (i : Nat) (w : Byte) : (s.storeWhite i w).teRunning = s.teRunning := rfl
@[simp] theorem State.storeWhite_tePos (s : State) (i : Nat) (w : Byte) : (s.storeWhite i w).tePos = s.tePos := rfl
@[simp] theorem State.storeWhite_event (s : State) (i : Nat) (w : Byte) : (s.storeWhite i w).event = s.event := rfl
@[simp] theorem State.storeWhite_wire (s : State) (i : Nat) (w : Byte) : (s.storeWhite i w).wire = s.wire := rfl
@[simp] theorem State.storeWhite_reply (s : State) (i : Nat) (w : Byte) : (s.storeWhite i w).reply = s.reply := rfl
@[simp] theorem State.storeWhite_inputs (s : State) (i : Nat) (w : Byte) : (s.storeWhite i w).inputs = s.inputs := rfl
@[simp] theorem State.storeWhite_startAnswers (s : State) (i : Nat) (w : Byte) : (s.storeWhite i w).startAnswers = s.startAnswers := rfl
@[simp] theorem State.storeWhite_draws (s : State) (i : Nat) (w : Byte) : (s.storeWhite i w).draws = s.draws := rfl

@[simp] theorem State.encodePixel_cfg (s : State) (p : Nat) (h : Half) : (s.encodePixel p h).cfg = s.cfg := rfl
@[simp] theorem State.encodePixel_cb (s : State) (p : Nat) (h : Half) : (s.encodePixel p h).cb = s.cb := rfl
@[simp] theorem State.encodePixel_tb (s : State) (p : Nat) (h : Half) : (s.encodePixel p h).tb = replaceHalf s.cfg.toConfig s.tb h (encodeRecord s.cfg.toConfig (s.fetchRecord p)) := rfl
@[simp] theorem State.encodePixel_pc (s : State) (p : Nat) (h : Half) : (s.encodePixel p h).pc = s.pc := rfl
@[simp] theorem State.encodePixel_es (s : State) (p : Nat) (h : Half) : (s.encodePixel p h).es = s.es := rfl
@[simp] theorem State.encodePixel_br (s : State) (p : Nat) (h : Half) : (s.encodePixel p h).br = s.br := rfl
@[simp] theorem State.encodePixel_teRunning (s : State) (p : Nat) (h : Half) : (s.encodePixel p h).teRunning = s.teRunning := rfl
@[simp] theorem State.encodePixel_tePos (s : State) (p : Nat) (h : Half) : (s.encodePixel p h).tePos = s.tePos := rfl
@[simp] theorem State.encodePixel_event (s : State) (p : Nat) (h : Half) : (s.encodePixel p h).event = s.event := rfl
@[simp] theorem State.encodePixel_wire (s : State) (p : Nat) (h : Half) : (s.encodePixel p h).wire = s.wire := rfl
@[simp] theorem State.encodePixel_reply (s : State) (p : Nat) (h : Half) : (s.encodePixel p h).reply = s.reply := rfl
@[simp] theorem State.encodePixel_inputs (s : State) (p : Nat) (h : Half) : (s.encodePixel p h).inputs = s.inputs := rfl
@[simp] theorem State.encodePixel_startAnswers (s : State) (p : Nat) (h : Half) : (s.encodePixel p h).startAnswers = s.startAnswers := rfl
@[simp] theorem State.encodePixel_raced (s : State) (p : Nat) (h : Half) : (s.encodePixel p h).raced = s.raced := rfl
@[simp] theorem State.encodePixel_draws (s : State) (p : Nat) (h : Half) : (s.encodePixel p h).draws = s.draws + 1 := rfl

@[simp] theorem State.zeroHalf_cfg (s : State) (h : Half) : (s.zeroHalf h).cfg = s.cfg := rfl
@[simp] theorem State.zeroHalf_cb (s : State) (h : Half) : (s.zeroHalf h).cb = s.cb := rfl
@[simp] theorem State.zeroHalf_tb (s : State) (h : Half) : (s.zeroHalf h).tb = replaceHalf s.cfg.toConfig s.tb h (List.replicate s.cfg.half 0) := rfl
@[simp] theorem State.zeroHalf_pc (s : State) (h : Half) : (s.zeroHalf h).pc = s.pc := rfl
@[simp] theorem State.zeroHalf_es (s : State) (h : Half) : (s.zeroHalf h).es = s.es := rfl
@[simp] theorem State.zeroHalf_br (s : State) (h : Half) : (s.zeroHalf h).br = s.br := rfl
@[simp] theorem State.zeroHalf_teRunning (s : State) (h : Half) : (s.zeroHalf h).teRunning = s.teRunning := rfl
@[simp] theorem State.zeroHalf_tePos (s : State) (h : Half) : (s.zeroHalf h).tePos = s.tePos := rfl
@[simp] theorem State.zeroHalf_event (s : State) (h : Half) : (s.zeroHalf h).event = s.event := rfl
@[simp] theorem State.zeroHalf_wire (s : State) (h : Half) : (s.zeroHalf h).wire = s.wire := rfl
@[simp] theorem State.zeroHalf_reply (s : State) (h : Half) : (s.zeroHalf h).reply = s.reply := rfl
@[simp] theorem State.zeroHalf_inputs (s : State) (h : Half) : (s.zeroHalf h).inputs = s.inputs := rfl
@[simp] theorem State.zeroHalf_startAnswers (s : State) (h : Half) : (s.zeroHalf h).startAnswers = s.startAnswers := rfl
@[simp] theorem State.zeroHalf_raced (s : State) (h : Half) : (s.zeroHalf h).raced = s.raced := rfl
@[simp] theorem State.zeroHalf_draws (s : State) (h : Half) : (s.zeroHalf h).draws = s.draws := rfl

@[simp] theorem State.teStart_cfg (s : State) : (s.teStart).cfg = s.cfg := rfl
@[simp] theorem State.teStart_cb (s : State) : (s.teStart).cb = s.cb := rfl
@[simp] theorem State.teStart_tb (s : State) : (s.teStart).tb = s.tb := rfl
@[simp] theorem State.teStart_pc (s : State) : (s.teStart).pc = s.pc := rfl
@[simp] theorem State.teStart_es (s : State) : (s.teStart).es = s.es := rfl
@[simp] theorem State.teStart_br (s : State) : (s.teStart).br = s.br := rfl
@[simp] theorem State.teStart_teRunning (s : State) : (s.teStart).teRunning = if s.startAnswer then true else s.teRunning := rfl
@[simp] theorem State.teStart_tePos (s : State) : (s.teStart).tePos = if s.startAnswer then 0 else s.tePos := rfl
@[simp] theorem State.teStart_event (s : State) : (s.teStart).event = s.event := rfl
@[simp] theorem State.teStart_wire (s : State) : (s.teStart).wire = s.wire := rfl
@[simp] theorem State.teStart_reply (s : State) : (s.teStart).reply = s.reply := rfl
@[simp] theorem State.teStart_inputs (s : State) : (s.teStart).inputs = s.inputs := rfl
@[simp] theorem State.teStart_startAnswers (s : State) : (s.teStart).startAnswers = s.startAnswers.tail := rfl
@[simp] theorem State.teStart_raced (s : State) : (s.teStart).raced = s.raced := rfl
@[simp] theorem State.teStart_draws (s : State) : (s.teStart).draws = s.draws + 1 := rfl

@[simp] theorem State.teStop_cfg (s : State) : (s.teStop).cfg = s.cfg := rfl
@[simp] theorem State.teStop_cb (s : State) : (s.teStop).cb = s.cb := rfl
@[simp] theorem State.teStop_tb (s : State) : (s.teStop).tb = s.tb := rfl
@[simp] theorem State.teStop_pc (s : State) : (s.teStop).pc = s.pc := rfl
@[simp] theorem State.teStop_es (s : State) : (s.teStop).es = s.es := rfl
@[simp] theorem State.teStop_br (s : State) : (s.teStop).br = s.br := rfl
@[simp] theorem State.teStop_teRunning (s : State) : (s.teStop).teRunning = false := rfl
@[simp] theorem State.teStop_tePos (s : State) : (s.teStop).tePos = s.tePos := rfl
@[simp] theorem State.teStop_event (s : State) : (s.teStop).event = s.event := rfl
@[simp] theorem State.teStop_wire (s : State) : (s.teStop).wire = s.wire := rfl
@[simp] theorem State.teStop_reply (s : State) : (s.teStop).reply = s.reply := rfl
@[simp] theorem State.teStop_inputs (s : State) : (s.teStop).inputs = s.inputs := rfl
@[simp] theorem State.teStop_startAnswers (s : State) : (s.teStop).startAnswers = s.startAnswers := rfl
@[simp] theorem State.teStop_raced (s : State) : (s.teStop).raced = s.raced := rfl
@[simp] theorem State.teStop_draws (s : State) : (s.teStop).draws = s.draws := rfl

@[simp] theorem State.advance_cfg (s : State) : (s.advance).cfg = s.cfg := by unfold State.advance; split_ifs <;> rfl
@[simp] theorem State.advance_cb (s : State) : (s.advance).cb = s.cb := by unfold State.advance; split_ifs <;> rfl
@[simp] theorem State.advance_tb (s : State) : (s.advance).tb = s.tb := by unfold State.advance; split_ifs <;> rfl
@[simp] theorem State.advance_pc (s : State) : (s.advance).pc = s.pc := by unfold State.advance; split_ifs <;> rfl
@[simp] theorem State.advance_es (s : State) : (s.advance).es = s.es := by unfold State.advance; split_ifs <;> rfl
@[simp] theorem State.advance_br (s : State) : (s.advance).br = s.br := by unfold State.advance; split_ifs <;> rfl
@[simp] theorem State.advance_teRunning (s : State) : (s.advance).teRunning = s.teRunning := by unfold State.advance; split_ifs <;> rfl
@[simp] theorem State.advance_wire (s : State) : (s.advance).wire = s.wire := by unfold State.advance; split_ifs <;> rfl
@[simp] theorem State.advance_reply (s : State) : (s.advance).reply = s.reply := by unfold State.advance; split_ifs <;> rfl
@[simp] theorem State.advance_inputs (s : State) : (s.advance).inputs = s.inputs := by unfold State.advance; split_ifs <;> rfl
@[simp] theorem State.advance_startAnswers (s : State) : (s.advance).startAnswers = s.startAnswers := by unfold State.advance; split_ifs <;> rfl
@[simp] theorem State.advance_raced (s : State) : (s.advance).raced = s.raced := by unfold State.advance; split_ifs <;> rfl
@[simp] theorem State.advance_draws (s : State) : (s.advance).draws = s.draws := by unfold State.advance; split_ifs <;> rfl

@[simp] theorem State.seed_cfg (s : State) : (s.seed).cfg = s.cfg := rfl
@[simp] theorem State.seed_cb (s : State) : (s.seed).cb = s.cb := rfl
@[simp] theorem State.seed_pc (s : State) : (s.seed).pc = s.pc := rfl
@[simp] theorem State.seed_es (s : State) : (s.seed).es = .busy := rfl
@[simp] theorem State.seed_br (s : State) : (s.seed).br = s.br := rfl
@[simp] theorem State.seed_teRunning (s : State) : (s.seed).teRunning = s.teRunning := rfl
@[simp] theorem State.seed_tePos (s : State) : (s.seed).tePos = s.tePos := rfl
@[simp] theorem State.seed_event (s : State) : (s.seed).event = s.event := rfl
@[simp] theorem State.seed_wire (s : State) : (s.seed).wire = s.wire := rfl
@[simp] theorem State.seed_reply (s : State) : (s.seed).reply = s.reply := rfl
@[simp] theorem State.seed_inputs (s : State) : (s.seed).inputs = s.inputs := rfl
@[simp] theorem State.seed_startAnswers (s : State) : (s.seed).startAnswers = s.startAnswers := rfl
@[simp] theorem State.seed_raced (s : State) : (s.seed).raced = [] := rfl
@[simp] theorem State.seed_draws (s : State) : (s.seed).draws = s.draws + 2 := rfl

@[simp] theorem State.startTransfer_cfg (s : State) : (s.startTransfer).cfg = s.cfg := rfl
@[simp] theorem State.startTransfer_cb (s : State) : (s.startTransfer).cb = s.cb := rfl
@[simp] theorem State.startTransfer_tb (s : State) : (s.startTransfer).tb = s.seed.tb := rfl
@[simp] theorem State.startTransfer_pc (s : State) : (s.startTransfer).pc = 2 := rfl
@[simp] theorem State.startTransfer_es (s : State) : (s.startTransfer).es = .busy := rfl
@[simp] theorem State.startTransfer_br (s : State) : (s.startTransfer).br = s.br := rfl
@[simp] theorem State.startTransfer_teRunning (s : State) : (s.startTransfer).teRunning = if s.seed.startAnswer then true else s.teRunning := rfl
@[simp] theorem State.startTransfer_tePos (s : State) : (s.startTransfer).tePos = if s.seed.startAnswer then 0 else s.tePos := rfl
@[simp] theorem State.startTransfer_event (s : State) : (s.startTransfer).event = s.event := rfl
@[simp] theorem State.startTransfer_wire (s : State) : (s.startTransfer).wire = s.wire := rfl
@[simp] theorem State.startTransfer_reply (s : State) : (s.startTransfer).reply = some (if s.seed.startAnswer then .status .ok else .status .transferStartError) := rfl
@[simp] theorem State.startTransfer_inputs (s : State) : (s.startTransfer).inputs = s.inputs := rfl
@[simp] theorem State.startTransfer_startAnswers (s : State) : (s.startTransfer).startAnswers = s.startAnswers.tail := rfl
@[simp] theorem State.startTransfer_raced (s : State) : (s.startTransfer).raced = [] := rfl
@[simp] theorem State.startTransfer_draws (s : State) : (s.startTransfer).draws = s.draws + 3 := rfl

@[simp] theorem State.refill_cfg (s : State) (h : Half) : (s.refill h).cfg = s.cfg := by unfold State.refill; split_ifs <;> rfl
@[simp] theorem State.refill_cb (s : State) (h : Half) : (s.refill h).cb = s.cb := by unfold State.refill; split_ifs <;> rfl
@[simp] theorem State.refill_pc (s : State) (h : Half) : (s.refill h).pc = s.pc + 1 := by unfold State.refill; split_ifs <;> rfl
@[simp] theorem State.refill_es (s : State) (h : Half) : (s.refill h).es = s.es := by unfold State.refill; split_ifs <;> rfl
@[simp] theorem State.refill_br (s : State) (h : Half) : (s.refill h).br = s.br := by unfold State.refill; split_ifs <;> rfl
@[simp] theorem State.refill_teRunning (s : State) (h : Half) : (s.refill h).teRunning = s.teRunning := by unfold State.refill; split_ifs <;> rfl
@[simp] theorem State.refill_tePos (s : State) (h : Half) : (s.refill h).tePos = s.tePos := by unfold State.refill; split_ifs <;> rfl
@[simp] theorem State.refill_event (s : State) (h : Half) : (s.refill h).event = s.event := by unfold State.refill; split_ifs <;> rfl
@[simp] theorem State.refill_wire (s : State) (h : Half) : (s.refill h).wire = s.wire := by unfold State.refill; split_ifs <;> rfl
@[simp] theorem State.refill_reply (s : State) (h : Half) : (s.refill h).reply = s.reply := by unfold State.refill; split_ifs <;> rfl
@[simp] theorem State.refill_inputs (s : State) (h : Half) : (s.refill h).inputs = s.inputs := by unfold State.refill; split_ifs <;> rfl
@[simp] theorem State.refill_startAnswers (s : State) (h : Half) : (s.refill h).startAnswers = s.startAnswers := by unfold State.refill; split_ifs <;> rfl
@[simp] theorem State.refill_raced (s : State) (h : Half) : (s.refill h).raced = s.raced := by unfold State.refill; split_ifs <;> rfl

@[simp] theorem State.terminate_cfg (s : State) : (s.terminate).cfg = s.cfg := rfl
@[simp] theorem State.terminate_cb (s : State) : (s.terminate).cb = s.cb := rfl
@[simp] theorem State.terminate_tb (s : State) : (s.terminate).tb = s.tb := rfl
@[simp] theorem State.terminate_pc (s : State) : (s.terminate).pc = 0 := rfl
@[simp] theorem State.terminate_es (s : State) : (s.terminate).es = .ready := rfl
@[simp] theorem State.terminate_br (s : State) : (s.terminate).br = s.br := rfl
@[simp] theorem State.terminate_teRunning (s : State) : (s.terminate).teRunning = false := rfl
@[simp] theorem State.terminate_tePos (s : State) : (s.terminate).tePos = s.tePos := rfl
@[simp] theorem State.terminate_event (s : State) : (s.terminate).event = s.event := rfl
@[simp] theorem State.terminate_wire (s : State) : (s.terminate).wire = s.wire := rfl
@[simp] theorem State.terminate_reply (s : State) : (s.terminate).reply = s.reply := rfl
@[simp] theorem State.terminate_inputs (s : State) : (s.terminate).inputs = s.inputs := rfl
@[simp] theorem State.terminate_startAnswers (s : State) : (s.terminate).startAnswers = s.startAnswers := rfl
@[simp] theorem State.terminate_raced (s : State) : (s.terminate).raced = [] := rfl
@[simp] theorem State.terminate_draws (s : State) : (s.terminate).draws = s.draws := rfl

end Sys2Proof.Machine
end

