-- ==== Sys2Proof/Laws/Ops.lean ====
section
/-! SUPPORT. What each shared operation does, once: facts of a legal configuration, addresses, the bytes of
`CB` after a store, lengths of what the Bit Encoder produces, halves of `TB`. -/

namespace Sys2Proof

/-- What a legal configuration satisfies (00_scope.md R8, R9). -/
theorem Config.legal_iff (c : Config) : c.legal = true ↔
    2 ≤ c.pixelCount ∧ (c.channels = 3 ∨ c.channels = 4) ∧ 0 < c.lowCode ∧ c.lowCode < c.highCode ∧
      c.highCode < c.reloadCount ∧ c.reloadCount ≤ 2 ^ c.codeWidth := by
  simp [Config.legal, and_assoc]

theorem Setup.two_le_pixelCount (c : Setup) : 2 ≤ c.pixelCount :=
  ((Config.legal_iff _).mp c.legal).1

theorem Setup.channels_eq (c : Setup) : c.channels = 3 ∨ c.channels = 4 :=
  ((Config.legal_iff _).mp c.legal).2.1

theorem Setup.three_le_channels (c : Setup) : 3 ≤ c.channels := by
  rcases c.channels_eq with h | h <;> omega

theorem Setup.lowCode_pos (c : Setup) : 0 < c.lowCode := ((Config.legal_iff _).mp c.legal).2.2.1

theorem Setup.lowCode_lt_highCode (c : Setup) : c.lowCode < c.highCode :=
  ((Config.legal_iff _).mp c.legal).2.2.2.1

theorem Setup.highCode_lt (c : Setup) : c.highCode < 2 ^ c.codeWidth :=
  let h := (Config.legal_iff _).mp c.legal
  lt_of_lt_of_le h.2.2.2.2.1 h.2.2.2.2.2

theorem Setup.half_pos (c : Setup) : 0 < c.half := by
  have := c.three_le_channels
  unfold Config.half; omega

theorem Setup.bufferLength_eq (c : Setup) : c.bufferLength = 2 * c.half := by
  unfold Config.half Config.bufferLength; omega

namespace Machine

/-- Every address of a record of a pixel is an address of `CB` (20_memory.md R50). -/
theorem recordAddress_lt {c : Config} {i j : Nat} (hi : i < c.pixelCount) (hj : j < c.channels) :
    recordAddress c i j < c.colourBytes := by
  unfold recordAddress Config.colourBytes
  calc c.channels * i + j < c.channels * i + c.channels := by omega
    _ = c.channels * (i + 1) := by ring
    _ ≤ c.channels * c.pixelCount := Nat.mul_le_mul_left _ hi
    _ = c.pixelCount * c.channels := Nat.mul_comm _ _

/-- Records do not overlap (20_memory.md R50). -/
theorem recordAddress_inj {c : Config} {i i' j j' : Nat} (hj : j < c.channels) (hj' : j' < c.channels)
    (h : recordAddress c i j = recordAddress c i' j') : i = i' ∧ j = j' := by
  unfold recordAddress at h
  have hd : (c.channels * i + j) / c.channels = (c.channels * i' + j') / c.channels := by rw [h]
  have hm : (c.channels * i + j) % c.channels = (c.channels * i' + j') % c.channels := by rw [h]
  rw [Nat.mul_add_div (by omega), Nat.mul_add_div (by omega), Nat.div_eq_of_lt hj,
    Nat.div_eq_of_lt hj'] at hd
  rw [Nat.mul_add_mod, Nat.mul_add_mod, Nat.mod_eq_of_lt hj, Nat.mod_eq_of_lt hj'] at hm
  exact ⟨by omega, hm⟩

/-- Every address of `CB` belongs to one channel of one pixel (20_memory.md R50). -/
theorem exists_recordAddress {c : Config} {k : Nat} (hk : k < c.colourBytes) :
    ∃ i < c.pixelCount, ∃ j < c.channels, k = recordAddress c i j := by
  unfold Config.colourBytes at hk
  have hc : 0 < c.channels := Nat.pos_of_ne_zero fun h => by simp [h] at hk
  exact ⟨k / c.channels, (Nat.div_lt_iff_lt_mul hc).mpr hk, k % c.channels, Nat.mod_lt _ hc,
    (Nat.div_add_mod k c.channels).symm⟩

theorem pixelOf_lt (c : Setup) (index : Index) : pixelOf c.toConfig index < c.pixelCount :=
  Nat.mod_lt _ (by have := c.two_le_pixelCount; omega)

/-! ### Bytes of the Colour Buffer -/

/-- A byte of `CB` depends on the written bytes alone. -/
theorem State.cbByte_congr {s t : State} (h : t.cb = s.cb) (k : Nat) : t.cbByte k = s.cbByte k := by
  unfold State.cbByte; rw [h]

/-- `CB` after the store of one byte (00_scope.md R11). -/
theorem State.cbByte_storeByte (s : State) (k : Nat) (v : Byte) (j : Nat) :
    (s.storeByte k v).cbByte j = if j = k then v else s.cbByte j := by
  unfold State.cbByte
  rw [State.storeByte_cb, Memory.read_write]
  split_ifs <;> rfl

/-- What is raced after the store of one byte (20_memory.md R63). -/
theorem State.raced_storeByte (s : State) (k : Nat) (v : Byte) :
    (s.storeByte k v).raced = if s.es = .busy then (k, s.cbByte k) :: s.raced else s.raced := by
  unfold State.storeByte
  cases h : s.es <;> simp

/-- `CB` after the three colour bytes of one record are stored (40_color_pipeline.md R113). -/
theorem State.cbByte_storeColour (s : State) (i : Nat) (r g b : Byte) (k : Nat) :
    (s.storeColour i r g b).cbByte k =
      if k = recordAddress s.cfg.toConfig i 0 then (storedColour s.cfg.toConfig s.br r g b).1
      else if k = recordAddress s.cfg.toConfig i 1 then (storedColour s.cfg.toConfig s.br r g b).2.1
      else if k = recordAddress s.cfg.toConfig i 2 then (storedColour s.cfg.toConfig s.br r g b).2.2
      else s.cbByte k := by
  have address_ne : ∀ j j', j ≠ j' →
      recordAddress s.cfg.toConfig i j ≠ recordAddress s.cfg.toConfig i j' := by
    unfold recordAddress; omega
  unfold State.storeColour
  simp only [State.cbByte_storeByte]
  split_ifs <;> simp_all

/-- `CB` after the white byte of one record is stored (40_color_pipeline.md R119). -/
theorem State.cbByte_storeWhite (s : State) (i : Nat) (w : Byte) (k : Nat) :
    (s.storeWhite i w).cbByte k =
      if k = recordAddress s.cfg.toConfig i whitePosition then bright s.br w else s.cbByte k :=
  State.cbByte_storeByte ..

/-- Storing bytes changes only `CB` and what is raced, and the latter only during a transfer. -/
def StoresOnly (s t : State) : Prop :=
  t = { s with cb := t.cb, raced := t.raced } ∧ (s.es = .ready → t.raced = s.raced)

theorem StoresOnly.refl (s : State) : StoresOnly s s := ⟨rfl, fun _ => rfl⟩

theorem StoresOnly.trans {s t u : State} (h₁ : StoresOnly s t) (h₂ : StoresOnly t u) :
    StoresOnly s u := by
  obtain ⟨h₁, r₁⟩ := h₁
  obtain ⟨h₂, r₂⟩ := h₂
  have hes : t.es = s.es := by rw [h₁]
  refine ⟨?_, fun h => (r₂ (hes.trans h)).trans (r₁ h)⟩
  rw [h₂, h₁]

theorem State.storeByte_storesOnly (s : State) (k : Nat) (v : Byte) : StoresOnly s (s.storeByte k v) :=
  ⟨rfl, fun h => by rw [State.raced_storeByte, h]; rfl⟩

theorem State.storeColour_storesOnly (s : State) (i : Nat) (r g b : Byte) :
    StoresOnly s (s.storeColour i r g b) :=
  ((State.storeByte_storesOnly ..).trans (State.storeByte_storesOnly ..)).trans
    (State.storeByte_storesOnly ..)

theorem State.storeWhite_storesOnly (s : State) (i : Nat) (w : Byte) :
    StoresOnly s (s.storeWhite i w) := State.storeByte_storesOnly ..

/-- A fold of storing steps only stores. -/
theorem foldl_storesOnly {α : Type} {f : State → α → State} (hf : ∀ s a, StoresOnly s (f s a))
    (l : List α) (s : State) : StoresOnly s (l.foldl f s) := by
  induction l generalizing s with
  | nil => exact .refl s
  | cons a l ih => exact (hf s a).trans (ih _)

theorem State.forEachPixel_storesOnly {f : State → Nat → State} (hf : ∀ s i, StoresOnly s (f s i))
    (s : State) : StoresOnly s (s.forEachPixel f) := foldl_storesOnly hf _ s

theorem StoresOnly.cfg {s t : State} (h : StoresOnly s t) : t.cfg = s.cfg := by rw [h.1]

theorem StoresOnly.br {s t : State} (h : StoresOnly s t) : t.br = s.br := by rw [h.1]

/-- The store of one byte keeps the canonical form where the address exists. -/
theorem State.MemoryOk.storeByte {s : State} (h : s.MemoryOk) {k : Nat} (hk : k < s.cfg.colourBytes)
    (v : Byte) : (s.storeByte k v).MemoryOk :=
  ⟨Memory.wf_write _ _ h.1, fun _ hc => by
    rcases Memory.mem_write hc with rfl | hc
    · exact hk
    · exact h.2 _ hc⟩

theorem State.MemoryOk.storeColour {s : State} (h : s.MemoryOk) {i : Nat} (hi : i < s.cfg.pixelCount)
    (r g b : Byte) : (s.storeColour i r g b).MemoryOk := by
  have hc := s.cfg.three_le_channels
  have address : ∀ j < 3, recordAddress s.cfg.toConfig i j < s.cfg.colourBytes :=
    fun j hj => recordAddress_lt hi (by omega)
  exact State.MemoryOk.storeByte (State.MemoryOk.storeByte
    (State.MemoryOk.storeByte h (address 0 (by omega)) _) (address 1 (by omega)) _)
    (address 2 (by omega)) _

theorem State.MemoryOk.storeWhite {s : State} (h : s.MemoryOk) {i : Nat} (hi : i < s.cfg.pixelCount)
    (h4 : s.cfg.channels = 4) (w : Byte) : (s.storeWhite i w).MemoryOk :=
  State.MemoryOk.storeByte h (recordAddress_lt hi (by rw [h4]; decide)) _

/-- A fold of steps that keep a property of the states with a given configuration. -/
theorem foldl_keeps {P : State → Prop} {f : State → Nat → State} (c : Setup) (l : List Nat)
    (hf : ∀ s a, a ∈ l → s.cfg = c → P s → (f s a).cfg = c ∧ P (f s a)) (s : State) (hc : s.cfg = c)
    (h : P s) : P (l.foldl f s) := by
  induction l generalizing s with
  | nil => exact h
  | cons a l ih =>
    have := hf s a List.mem_cons_self hc h
    exact ih (fun s b hb => hf s b (List.mem_cons_of_mem _ hb)) _ this.1 this.2

/-! ### Fetching -/

theorem State.fetchByte_of_oldValues_nil {s : State} {k : Nat} (h : s.oldValues k = []) :
    s.fetchByte k = s.cbByte k := by unfold State.fetchByte; rw [h]

theorem State.fetchByte_of_raced_nil {s : State} (h : s.raced = []) (k : Nat) :
    s.fetchByte k = s.cbByte k :=
  State.fetchByte_of_oldValues_nil (by unfold State.oldValues; rw [h]; rfl)

theorem State.fetchRecord_of_raced_nil {s : State} (h : s.raced = []) (p : Nat) :
    s.fetchRecord p = s.record p := by
  unfold State.fetchRecord State.record
  simp only [State.fetchByte_of_raced_nil h]

/-! ### The Bit Encoder -/

@[simp] theorem encodeByte_length (c : Config) (v : Byte) : (encodeByte c v).length = 8 := by
  simp [encodeByte]

theorem encodeByte_isCode {c : Config} {v : Byte} {code : Nat} (h : code ∈ encodeByte c v) :
    code = c.lowCode ∨ code = c.highCode := by
  unfold encodeByte at h
  obtain ⟨i, -, rfl⟩ := List.mem_map.mp h
  split_ifs
  · exact .inr rfl
  · exact .inl rfl

theorem encodeRecord_isCode {c : Config} {r : List Byte} {code : Nat} (h : code ∈ encodeRecord c r) :
    code = c.lowCode ∨ code = c.highCode := by
  obtain ⟨v, -, hv⟩ := List.mem_flatMap.mp h
  exact encodeByte_isCode hv

theorem encodeRecord_length (c : Config) (r : List Byte) : (encodeRecord c r).length = 8 * r.length := by
  induction r with
  | nil => rfl
  | cons v r ih =>
    rw [show encodeRecord c (v :: r) = encodeByte c v ++ encodeRecord c r from rfl, List.length_append,
      ih, encodeByte_length, List.length_cons]
    omega

@[simp] theorem State.fetchRecord_length (s : State) (p : Nat) :
    (s.fetchRecord p).length = s.cfg.channels := by simp [State.fetchRecord]

@[simp] theorem State.record_length (s : State) (p : Nat) : (s.record p).length = s.cfg.channels := by
  simp [State.record]

theorem State.encodeRecord_fetchRecord_length (s : State) (p : Nat) :
    (encodeRecord s.cfg.toConfig (s.fetchRecord p)).length = s.cfg.half := by
  rw [encodeRecord_length, State.fetchRecord_length]; unfold Config.half; omega

theorem State.encodedPixel_length (s : State) (p : Nat) : (s.encodedPixel p).length = s.cfg.half := by
  unfold State.encodedPixel
  rw [encodeRecord_length, State.record_length]; unfold Config.half; omega

/-! ### Halves of the Transfer Buffer -/

/-- Replacing one half by `HALF` codes keeps the length of `TB` (20_memory.md R51). -/
theorem length_replaceHalf {c : Setup} {tb codes : List Nat} (h : Half)
    (htb : tb.length = c.bufferLength) (hc : codes.length = c.half) :
    (replaceHalf c.toConfig tb h codes).length = c.bufferLength := by
  have := c.bufferLength_eq
  cases h <;> simp [replaceHalf, htb, hc] <;> omega

/-- Every code of a buffer with one half replaced is an old code or a new one. -/
theorem mem_replaceHalf {c : Config} {tb codes : List Nat} {h : Half} {code : Nat}
    (hm : code ∈ replaceHalf c tb h codes) : code ∈ tb ∨ code ∈ codes := by
  cases h <;> simp only [replaceHalf, List.mem_append] at hm
  · exact hm.elim .inr (fun h => .inl (List.mem_of_mem_drop h))
  · exact hm.elim (fun h => .inl (List.mem_of_mem_take h)) .inr

end Machine

end Sys2Proof
end

