-- ==== Sys2Proof/Laws/Step.lean ====
section
/-! SUPPORT. Everything a step can do, once: the cases of `exec`, of `emit` and of `step` when they answer a
next state. Invariants are derived from these, not by unfolding the machine. -/

namespace Sys2Proof.Machine

theorem State.inTransfer_iff (s : State) :
    s.inTransfer = true ↔ s.es = .busy ∧ s.teRunning = true := by simp [State.inTransfer]

theorem State.teIdle_iff (s : State) : s.teIdle = true ↔ s.teRunning = false := by simp [State.teIdle]

theorem EngineState.ready_of_ne_busy {e : EngineState} (h : e ≠ .busy) : e = .ready := by
  cases e
  · rfl
  · exact absurd rfl h

/-- An event word is one of the two events (30_encoding.md R83). -/
theorem EventWord.cases (e : EventWord) : e = 0#1 ∨ e = 1#1 := by
  revert e; decide

/-- Every colour byte stored for every pixel is in `CB`, and the form of `CB` is kept. -/
theorem State.MemoryOk.fillColour {s : State} (h : s.MemoryOk) (r g b : Byte) :
    (s.forEachPixel fun s i => s.storeColour i r g b).MemoryOk := by
  refine foldl_keeps (P := State.MemoryOk) s.cfg _ ?_ s rfl h
  refine fun u i hi hc hu => ⟨hc, ?_⟩
  exact State.MemoryOk.storeColour hu (by rw [hc]; exact List.mem_range.mp hi) r g b

theorem State.MemoryOk.fillWhite {s : State} (h : s.MemoryOk) (h4 : s.cfg.channels = 4) (w : Byte) :
    (s.forEachPixel fun s i => s.storeWhite i w).MemoryOk := by
  refine foldl_keeps (P := State.MemoryOk) s.cfg _ ?_ s rfl h
  refine fun u i hi hc hu => ⟨hc, ?_⟩
  exact State.MemoryOk.storeWhite hu (by rw [hc]; exact List.mem_range.mp hi) (by rw [hc]; exact h4) w

theorem State.MemoryOk.clear {s : State} (h : s.MemoryOk) :
    ((List.range s.cfg.colourBytes).foldl (fun s k => s.storeByte k 0#8) s).MemoryOk := by
  refine foldl_keeps (P := State.MemoryOk) s.cfg _ ?_ s rfl h
  refine fun u k hk hc hu => ⟨hc, ?_⟩
  exact State.MemoryOk.storeByte hu (by rw [hc]; exact List.mem_range.mp hk) 0#8

/-- The cases of `exec`: what the next state of an instruction is. -/
inductive ExecNext (s : State) : Instr → State → Prop where
  | init (ready : s.es = .ready) :
    ExecNext s .init ({ s with es := .ready, pc := 0, wire := [] }.answer (.status .ok))
  | setBrightness (b : Byte) :
    ExecNext s (.setBrightness b) ({ s with br := b }.answer (.status .ok))
  | colour {i : Instr} (writes : i.writesColourBuffer = true) (u : State) (r : Reply)
    (stores : StoresOnly s u) (form : s.MemoryOk → u.MemoryOk) : ExecNext s i (u.answer r)
  | showBusy (busy : s.es = .busy ∨ s.teIdle = false) :
    ExecNext s .trigger (s.answer (.status .busy))
  | showAccepted (ready : s.es = .ready) (idle : s.teIdle = true) : ExecNext s .trigger s.startTransfer
  | isReady : ExecNext s .isReady (s.answer (.engine s.es))
  | halfRefill (transfer : s.inTransfer = true) (more : s.pc < s.cfg.pixelCount + 2) :
    ExecNext s .evHalf (s.refill .first)
  | halfNothing (transfer : s.inTransfer = true) (done : s.cfg.pixelCount + 2 ≤ s.pc) :
    ExecNext s .evHalf s
  | fullRefill (transfer : s.inTransfer = true) (more : s.pc < s.cfg.pixelCount + 2) :
    ExecNext s .evFull (s.refill .second)
  | fullTerminate (transfer : s.inTransfer = true) (done : s.cfg.pixelCount + 2 ≤ s.pc) :
    ExecNext s .evFull s.terminate

/-- `exec` answers a next state in these cases only. -/
theorem exec_next {i : Instr} {s t : State} (h : exec i s = .next t) : ExecNext s i t := by
  have four (h3 : ¬ s.cfg.channels = 3) : s.cfg.channels = 4 := s.cfg.channels_eq.resolve_left h3
  cases i with
  | init =>
    simp only [exec, execInit] at h
    split_ifs at h with hb
    injection h with h
    exact h ▸ .init (EngineState.ready_of_ne_busy hb)
  | setBrightness b =>
    injection h with h
    exact h ▸ .setBrightness b
  | clear =>
    injection h with h
    exact h ▸ .colour rfl _ _ (foldl_storesOnly (fun _ _ => State.storeByte_storesOnly ..) _ _)
      State.MemoryOk.clear
  | setPixelRgb index r g b =>
    injection h with h
    exact h ▸ .colour rfl _ _ (State.storeColour_storesOnly ..) fun hm =>
      State.MemoryOk.storeColour hm (pixelOf_lt ..) ..
  | setPixelHsv index hue sat val =>
    injection h with h
    exact h ▸ .colour rfl _ _ (State.storeColour_storesOnly ..) fun hm =>
      State.MemoryOk.storeColour hm (pixelOf_lt ..) ..
  | setPixelWhite index w =>
    injection h with h
    split_ifs at h with h3
    · exact h ▸ .colour rfl _ _ (.refl s) id
    · exact h ▸ .colour rfl _ _ (State.storeWhite_storesOnly ..) fun hm =>
        State.MemoryOk.storeWhite hm (pixelOf_lt ..) (four h3) w
  | fillRgb r g b =>
    injection h with h
    exact h ▸ .colour rfl _ _ (State.forEachPixel_storesOnly (fun _ _ => State.storeColour_storesOnly ..) _)
      fun hm => State.MemoryOk.fillColour hm r g b
  | fillHsv hue sat val =>
    injection h with h
    exact h ▸ .colour rfl _ _ (State.forEachPixel_storesOnly (fun _ _ => State.storeColour_storesOnly ..) _)
      fun hm => State.MemoryOk.fillColour hm ..
  | fillWhite w =>
    injection h with h
    split_ifs at h with h3
    · exact h ▸ .colour rfl _ _ (.refl s) id
    · exact h ▸ .colour rfl _ _
        (State.forEachPixel_storesOnly (fun _ _ => State.storeWhite_storesOnly ..) _)
        fun hm => State.MemoryOk.fillWhite hm (four h3) w
  | trigger =>
    injection h with h
    split_ifs at h with hb
    · exact h ▸ .showBusy hb
    · rw [not_or] at hb
      exact h ▸ .showAccepted (EngineState.ready_of_ne_busy hb.1) (by simpa using hb.2)
  | isReady =>
    injection h with h
    exact h ▸ .isReady
  | evHalf =>
    simp only [exec, execEvHalf] at h
    split_ifs at h with ht hp
    · injection h with h
      exact h ▸ .halfRefill ht hp
    · injection h with h
      exact h ▸ .halfNothing ht (Nat.le_of_not_lt hp)
  | evFull =>
    simp only [exec, execEvFull] at h
    split_ifs at h with ht hp
    · injection h with h
      exact h ▸ .fullRefill ht hp
    · injection h with h
      exact h ▸ .fullTerminate ht (Nat.le_of_not_lt hp)

/-- `emit` answers a next state in these cases only. -/
theorem emit_next {s t : State} (h : s.emit = .next t) :
    (s.teRunning = false ∧ t = s) ∨
    (s.teRunning = true ∧ ∃ code, s.tb[s.tePos]? = some code ∧
      t = ({ s with wire := s.wire ++ [code] } : State).advance) := by
  unfold State.emit at h
  split_ifs at h with hr
  · cases hc : s.tb[s.tePos]? with
    | none => simp [hc] at h
    | some code =>
      simp only [hc] at h
      injection h with h
      exact .inr ⟨hr, code, rfl, h.symm⟩
  · injection h with h
    exact .inl ⟨by simpa using hr, h.symm⟩

/-- Nothing is fetched exactly when no event is raised and the caller's next operation is no command. -/
theorem State.fetched_eq_none {s : State} : s.fetched = none ↔
    s.event = none ∧ ∀ w rest, s.inputs ≠ .command w :: rest := by
  unfold State.fetched
  cases s.event with
  | some e => simp
  | none =>
    cases s.inputs with
    | nil => simp
    | cons x rest => cases x <;> simp

/-- A command word never decodes to an event. -/
theorem decodeCommand_ne_event {w : CommandWord} {i : Instr} (h : decodeCommand w = .ok i) :
    i ≠ .evHalf ∧ i ≠ .evFull := by
  unfold decodeCommand at h
  simp only at h
  split at h <;>
    first
    | (obtain ⟨-, rfl⟩ := ifUnusedZero_eq_ok.mp h; simp)
    | (injection h with h; subst h; simp)
    | cases h

/-- The cases of a step that answers a next state. -/
theorem step_next {s t : State} (h : step s = .next t) :
    (s.event = some 0#1 ∧ exec .evHalf s.takeEvent = .next t) ∨
    (s.event = some 1#1 ∧ exec .evFull s.takeEvent = .next t) ∨
    (∃ w rest i, s.event = none ∧ s.inputs = .command w :: rest ∧ decodeCommand w = .ok i ∧
      exec i { s with inputs := rest } = .next t) ∨
    (s.event = none ∧ s.fetched = none ∧ s.pulseStep = .next t) := by
  unfold step at h
  cases he : s.event with
  | some e =>
    simp only [State.fetched, he, decode] at h
    rcases EventWord.cases e with rfl | rfl
    · exact .inl ⟨rfl, h⟩
    · exact .inr (.inl ⟨rfl, h⟩)
  | none =>
    cases hf : s.fetched with
    | none => exact .inr (.inr (.inr ⟨rfl, rfl, by simpa [hf] using h⟩))
    | some p =>
      obtain ⟨word, taken⟩ := p
      rw [hf] at h
      simp only [State.fetched, he] at hf
      cases hi : s.inputs with
      | nil => simp [hi] at hf
      | cons x rest =>
        cases x with
        | pulse => simp [hi] at hf
        | command w =>
          simp only [hi, Option.some.injEq, Prod.mk.injEq] at hf
          obtain ⟨rfl, rfl⟩ := hf
          simp only [decode] at h
          cases hd : decodeCommand w with
          | error e => simp [hd] at h
          | ok i => exact .inr (.inr (.inl ⟨w, rest, i, rfl, rfl, hd, by simpa [hd] using h⟩))

/-- A run of the machine, one step at a time. -/
theorem run_of_next {s t : State} (h : step s = .next t) (n : Nat) :
    Host.Core.run Sys2Proof.core (n + 1) s = Host.Core.run Sys2Proof.core n t := by
  have h' : Sys2Proof.core.step s = .next t := h
  simp only [Host.Core.run]
  rw [h']

end Sys2Proof.Machine
end

