-- ==== Sys2Proof/Laws/Buffer.lean ====
section
/-! SUPPORT. What a refill, a seed and an emission do to the Transfer Buffer, half by half
(20_memory.md R51, 42_streaming_engine.md R152, R154, R156). -/

namespace Sys2Proof.Machine

/-- The half that is not `h`. -/
def Half.other : Half → Half
  | .first => .second
  | .second => .first

theorem halfOfPixel_succ (p : Nat) : halfOfPixel (p + 1) = (halfOfPixel p).other := by
  unfold halfOfPixel
  rcases Nat.mod_two_eq_zero_or_one p with h | h
  · rw [if_neg (by omega), if_pos h]; rfl
  · rw [if_pos (by omega), if_neg (by omega)]; rfl

theorem halfOfPixel_succ_succ (p : Nat) : halfOfPixel (p + 2) = halfOfPixel p := by
  unfold halfOfPixel; rw [Nat.add_mod_right]

/-- The codes of a half of a buffer. -/
def codesOf (c : Config) (tb : List Nat) : Half → List Nat
  | .first => tb.take c.half
  | .second => tb.drop c.half

theorem State.halfCodes_eq (s : State) (h : Half) : s.halfCodes h = codesOf s.cfg.toConfig s.tb h := by
  cases h <;> rfl

theorem State.nextHalf_none {s : State} (h : s.event = none) :
    s.nextHalf = if s.tePos < s.cfg.half then .first else .second := by
  unfold State.nextHalf; rw [h]

theorem State.nextHalf_half {s : State} (h : s.event = some 0#1) : s.nextHalf = .first := by
  unfold State.nextHalf; rw [h]; rfl

theorem State.nextHalf_full {s : State} (h : s.event = some 1#1) : s.nextHalf = .second := by
  unfold State.nextHalf; rw [h]; rfl

variable {c : Setup} {tb codes : List Nat}

theorem codesOf_replaceHalf_same (h : Half) (htb : tb.length = c.bufferLength)
    (hc : codes.length = c.half) : codesOf c.toConfig (replaceHalf c.toConfig tb h codes) h = codes := by
  have := c.bufferLength_eq
  cases h
  · simp [codesOf, replaceHalf, hc]
  · have ht : (tb.take c.half).length = c.half := by simp; omega
    simp only [codesOf, replaceHalf]
    rw [List.drop_append_of_le_length (by omega), List.drop_eq_nil_of_le (by omega), List.nil_append]

theorem codesOf_replaceHalf_other (h : Half) (htb : tb.length = c.bufferLength)
    (hc : codes.length = c.half) :
    codesOf c.toConfig (replaceHalf c.toConfig tb h codes) h.other = codesOf c.toConfig tb h.other := by
  have := c.bufferLength_eq
  cases h
  · simp only [codesOf, replaceHalf, Half.other]
    rw [List.drop_append_of_le_length (by omega), ← hc, List.drop_length, List.nil_append]
  · have ht : (tb.take c.half).length = c.half := by simp; omega
    simp only [codesOf, replaceHalf, Half.other]
    rw [List.take_append_of_le_length (by omega), List.take_take, Nat.min_self]

/-- A buffer is its two halves. -/
theorem append_codesOf (c : Config) (tb : List Nat) :
    codesOf c tb .first ++ codesOf c tb .second = tb := List.take_append_drop ..

/-- A buffer of two zero halves is all zero (42_streaming_engine.md R171). -/
theorem eq_replicate_of_zero_halves (h : Half) (h₁ : codesOf c.toConfig tb h = List.replicate c.half 0)
    (h₂ : codesOf c.toConfig tb h.other = List.replicate c.half 0) :
    tb = List.replicate c.bufferLength 0 := by
  have e := append_codesOf c.toConfig tb
  have hl := c.bufferLength_eq
  cases h <;> simp only [Half.other] at h₂ <;> rw [h₁, h₂, ← List.replicate_add] at e <;>
    rw [← e] <;> congr 1 <;> omega

/-! ### Refill -/

/-- The codes a refill stages: the record of the pixel at the cursor, or zeros (42_streaming_engine.md
R165). -/
def State.staged (s : State) : List Nat :=
  if s.pc < s.cfg.pixelCount then encodeRecord s.cfg.toConfig (s.fetchRecord s.pc)
  else List.replicate s.cfg.half 0

theorem State.staged_length (s : State) : s.staged.length = s.cfg.half := by
  unfold State.staged
  split_ifs
  · exact s.encodeRecord_fetchRecord_length s.pc
  · exact List.length_replicate

/-- A refill, in one line (42_streaming_engine.md R154, R157). -/
theorem State.refill_eq (s : State) (h : Half) : s.refill h =
    { s with
      tb := replaceHalf s.cfg.toConfig s.tb h s.staged
      pc := s.pc + 1
      draws := if s.pc < s.cfg.pixelCount then s.draws + 1 else s.draws } := by
  unfold State.refill State.staged
  split_ifs <;> rfl

theorem State.staged_isCode {s : State} {code : Nat} (h : code ∈ s.staged) :
    s.cfg.toConfig.isCode code := by
  unfold State.staged at h
  split_ifs at h
  · rcases encodeRecord_isCode h with h | h
    · exact .inr (.inl h)
    · exact .inr (.inr h)
  · exact .inl (List.eq_of_mem_replicate h)

theorem isCode_lt (c : Setup) {code : Nat} (h : c.toConfig.isCode code) : code < 2 ^ c.codeWidth := by
  have h1 := c.highCode_lt
  have h2 := c.lowCode_lt_highCode
  rcases h with h | h | h <;> omega

/-! ### Seed and start -/

/-- The accepted path of `show`, in one line (42_streaming_engine.md R151, R152, R159): the two records are
fetched as they stand, since the seed begins with no raced byte. -/
theorem State.startTransfer_eq (s : State) : s.startTransfer =
    { s with
      es := .busy
      pc := 2
      tb := s.encodedPixel 0 ++ s.encodedPixel 1
      teRunning := if s.seed.startAnswer then true else s.teRunning
      tePos := if s.seed.startAnswer then 0 else s.tePos
      reply := some (if s.seed.startAnswer then .status .ok else .status .transferStartError)
      startAnswers := s.startAnswers.tail
      raced := []
      draws := s.draws + 3 } := by
  have e0 : ({ s with es := .busy, raced := [] } : State).fetchRecord 0 = s.record 0 :=
    State.fetchRecord_of_raced_nil rfl 0
  have e1 : (({ s with es := .busy, raced := [] } : State).encodePixel 0 .first).fetchRecord 1 =
      s.record 1 := State.fetchRecord_of_raced_nil rfl 1
  have htb' : s.seed.tb = s.encodedPixel 0 ++ s.encodedPixel 1 := by
    unfold State.seed
    rw [State.encodePixel_tb, e1]
    simp only [State.encodePixel, e0, replaceHalf]
    rw [List.take_append_of_le_length (by rw [encodeRecord_length, State.record_length]; unfold Config.half; omega)]
    have : s.cfg.half = (encodeRecord s.cfg.toConfig (s.record 0)).length := (s.encodedPixel_length 0).symm
    rw [this, List.take_length]; rfl
  unfold State.startTransfer State.teStart State.answer
  rw [htb']; rfl

/-! ### Emission -/

/-- The three ways the Transfer Engine moves on (43_serializer.md R185). -/
theorem State.advance_cases (s : State) :
    (s.tePos + 1 = s.cfg.half ∧
      s.advance = { s with tePos := s.cfg.half, event := some 0#1 }) ∨
    (s.tePos + 1 ≠ s.cfg.half ∧ s.tePos + 1 = s.cfg.bufferLength ∧
      s.advance = { s with tePos := 0, event := some 1#1 }) ∨
    (s.tePos + 1 ≠ s.cfg.half ∧ s.tePos + 1 ≠ s.cfg.bufferLength ∧
      s.advance = { s with tePos := s.tePos + 1 }) := by
  unfold State.advance
  split_ifs with h1 h2
  · exact .inl ⟨h1, by rw [h1]; rfl⟩
  · exact .inr (.inl ⟨h1, h2, rfl⟩)
  · exact .inr (.inr ⟨h1, h2, rfl⟩)

end Sys2Proof.Machine
end

