-- ==== Sys2Proof/Laws/Fill.lean ====
section
/-! SUPPORT. What the three loops over the Colour Buffer leave in each byte: the colour fill, the white fill
and `clear` (40_color_pipeline.md R121, R123, R125), by induction on the number of turns. -/

namespace Sys2Proof.Machine

/-- Different channel positions of one record are different addresses. -/
theorem recordAddress_ne (c : Config) (i : Nat) {j j' : Nat} (h : j ≠ j') :
    recordAddress c i j ≠ recordAddress c i j' := by
  unfold recordAddress; omega

/-- The stored colour, by channel position. -/
def storedAt (c : Config) (br r g b : Byte) : Nat → Byte
  | 0 => (storedColour c br r g b).1
  | 1 => (storedColour c br r g b).2.1
  | _ => (storedColour c br r g b).2.2

/-- One byte of `CB` after the store of a colour: its position says which channel it holds. -/
theorem State.cbByte_storeColour_at (s : State) (i : Nat) (r g b : Byte) {j : Nat} (hj : j < 3) :
    (s.storeColour i r g b).cbByte (recordAddress s.cfg.toConfig i j) =
      storedAt s.cfg.toConfig s.br r g b j := by
  rw [State.cbByte_storeColour]
  rcases (by omega : j = 0 ∨ j = 1 ∨ j = 2) with rfl | rfl | rfl
  · rw [if_pos rfl]; rfl
  · rw [if_neg (recordAddress_ne _ _ (by decide)), if_pos rfl]; rfl
  · rw [if_neg (recordAddress_ne _ _ (by decide)), if_neg (recordAddress_ne _ _ (by decide)),
      if_pos rfl]; rfl

theorem State.cbByte_storeColour_of_ne (s : State) (i : Nat) (r g b : Byte) {k : Nat}
    (h : ∀ j < 3, k ≠ recordAddress s.cfg.toConfig i j) :
    (s.storeColour i r g b).cbByte k = s.cbByte k := by
  rw [State.cbByte_storeColour, if_neg (h 0 (by decide)), if_neg (h 1 (by decide)),
    if_neg (h 2 (by decide))]

/-- The first `n` turns of a colour fill. -/
theorem State.cbByte_fillColour (s : State) (r g b : Byte) (n : Nat) :
    (∀ i < n, ∀ j < 3,
      ((List.range n).foldl (fun s i => s.storeColour i r g b) s).cbByte (recordAddress s.cfg.toConfig i j) =
        storedAt s.cfg.toConfig s.br r g b j) ∧
    (∀ k, (∀ i < n, ∀ j < 3, k ≠ recordAddress s.cfg.toConfig i j) →
      ((List.range n).foldl (fun s i => s.storeColour i r g b) s).cbByte k = s.cbByte k) := by
  have h3 := s.cfg.three_le_channels
  induction n with
  | zero => simp
  | succ n ih =>
    simp only [List.range_succ, List.foldl_append, List.foldl_cons, List.foldl_nil]
    have hS : StoresOnly s ((List.range n).foldl (fun s i => s.storeColour i r g b) s) :=
      foldl_storesOnly (fun s i => State.storeColour_storesOnly ..) _ _
    revert ih hS
    generalize (List.range n).foldl (fun s i => s.storeColour i r g b) s = u
    intro ⟨h1, h2⟩ hS
    refine ⟨fun i hi j hj => ?_, fun k hk => ?_⟩
    · by_cases hin : i = n
      · subst hin
        rw [← hS.cfg, ← hS.br]
        exact State.cbByte_storeColour_at u i r g b hj
      · rw [State.cbByte_storeColour_of_ne _ _ _ _ _ fun j' hj' he => hin ?_]
        · exact h1 i (by omega) j hj
        · rw [hS.cfg] at he
          exact (recordAddress_inj (by omega) (by omega) he).1
    · rw [State.cbByte_storeColour_of_ne _ _ _ _ _ fun j hj => by rw [hS.cfg]; exact hk n (by omega) j hj]
      exact h2 k fun i hi j hj => hk i (by omega) j hj

/-- The first `n` turns of a white fill. -/
theorem State.cbByte_fillWhite (s : State) (w : Byte) (n : Nat) :
    (∀ i < n, ((List.range n).foldl (fun s i => s.storeWhite i w) s).cbByte
      (recordAddress s.cfg.toConfig i whitePosition) = bright s.br w) ∧
    (∀ k, (∀ i < n, k ≠ recordAddress s.cfg.toConfig i whitePosition) →
      ((List.range n).foldl (fun s i => s.storeWhite i w) s).cbByte k = s.cbByte k) := by
  induction n with
  | zero => simp
  | succ n ih =>
    simp only [List.range_succ, List.foldl_append, List.foldl_cons, List.foldl_nil]
    have hS : StoresOnly s ((List.range n).foldl (fun s i => s.storeWhite i w) s) :=
      foldl_storesOnly (fun s i => State.storeWhite_storesOnly ..) _ _
    revert ih hS
    generalize (List.range n).foldl (fun s i => s.storeWhite i w) s = u
    intro ⟨h1, h2⟩ hS
    refine ⟨fun i hi => ?_, fun k hk => ?_⟩
    · rw [State.cbByte_storeWhite, hS.cfg, hS.br]
      by_cases h : recordAddress s.cfg.toConfig i whitePosition = recordAddress s.cfg.toConfig n whitePosition
      · exact if_pos h
      · rw [if_neg h]
        exact h1 i (Nat.lt_of_le_of_ne (by omega) fun e => h (by rw [e]))
    · rw [State.cbByte_storeWhite, hS.cfg, if_neg (hk n (by omega))]
      exact h2 k fun i hi => hk i (by omega)

/-- The first `n` turns of `clear`. -/
theorem State.cbByte_clear (s : State) (n k : Nat) :
    ((List.range n).foldl (fun s k => s.storeByte k 0#8) s).cbByte k =
      if k < n then 0#8 else s.cbByte k := by
  induction n with
  | zero => rfl
  | succ n ih =>
    simp only [List.range_succ, List.foldl_append, List.foldl_cons, List.foldl_nil]
    rw [State.cbByte_storeByte, ih]
    split_ifs <;> first | rfl | omega

end Sys2Proof.Machine
end

