-- ==== Sys2Proof/Laws/PerInstr.lean ====
section
/-! SUPPORT. The statements made for every instruction, by family. -/

namespace Sys2Proof.Laws

open Sys2Proof

namespace WordOfRow

/-- The word that spells an instruction is a word of the opcode-table row of its mnemonic, and of no other
row: spec/opcode_table.json, 30_encoding.md R82, R83. -/
def Statement (i : Instr) : Prop :=
  match encode i with
  | .command w => commandRows.filterMap (fun row => if row.accepts w then some row.mnemonic else none) =
      [i.mnemonic]
  | .event e => (if e = 0#1 then "EV_HALF" else "EV_FULL") = i.mnemonic

/-- Which rows accept an assembled word, from its fields. -/
theorem rows_commandWord (op : BitVec 8) (index : Index) (a b c : Byte) (row : OpcodeRow) :
    row.accepts (commandWord op index a b c) = true ↔
      op &&& opField row.mask = opField row.pattern ∧
      index &&& indexField row.mask = indexField row.pattern ∧
      a &&& aField row.mask = aField row.pattern ∧
      b &&& bField row.mask = bField row.pattern ∧
      c &&& cField row.mask = cField row.pattern := by
  rw [OpcodeRow.accepts_iff]
  simp only [opField_commandWord, indexField_commandWord, aField_commandWord, bField_commandWord,
    cField_commandWord]

theorem init : Statement .init := rfl
theorem clear : Statement .clear := rfl
theorem setBrightness (brightness : Byte) : Statement (.setBrightness brightness) := by
  simp [Statement, encode, commandRows, rows_commandWord, opField, indexField, aField, bField, cField,
    Instr.mnemonic]
theorem setPixelRgb (index : Index) (r g b : Byte) : Statement (.setPixelRgb index r g b) := by
  simp [Statement, encode, commandRows, rows_commandWord, opField, indexField, aField, bField, cField,
    Instr.mnemonic]
theorem setPixelHsv (index : Index) (hue sat val : Byte) : Statement (.setPixelHsv index hue sat val) := by
  simp [Statement, encode, commandRows, rows_commandWord, opField, indexField, aField, bField, cField,
    Instr.mnemonic]
theorem setPixelWhite (index : Index) (w : Byte) : Statement (.setPixelWhite index w) := by
  simp [Statement, encode, commandRows, rows_commandWord, opField, indexField, aField, bField, cField,
    Instr.mnemonic]
theorem fillRgb (r g b : Byte) : Statement (.fillRgb r g b) := by
  simp [Statement, encode, commandRows, rows_commandWord, opField, indexField, aField, bField, cField,
    Instr.mnemonic]
theorem fillHsv (hue sat val : Byte) : Statement (.fillHsv hue sat val) := by
  simp [Statement, encode, commandRows, rows_commandWord, opField, indexField, aField, bField, cField,
    Instr.mnemonic]
theorem fillWhite (w : Byte) : Statement (.fillWhite w) := by
  simp [Statement, encode, commandRows, rows_commandWord, opField, indexField, aField, bField, cField,
    Instr.mnemonic]
theorem trigger : Statement .trigger := rfl
theorem isReady : Statement .isReady := rfl
theorem evHalf : Statement .evHalf := rfl
theorem evFull : Statement .evFull := rfl

end WordOfRow

end Sys2Proof.Laws
end

