-- ==== Sys2Proof/Tests/Slice0.lean ====
section
/-! SUPPORT. The model's own tests. Expected results are the spec's: the words of 95_test_vectors.md V70 to
V82, its vectors and the examples of the rules, named at each test. The second part shows, for every
statement with hypotheses, concrete states and operands that meet them. -/

namespace Sys2Proof.Tests

open Sys2Proof Sys2Proof.Machine

/-! ### Helpers -/

/-- A legal configuration with `n + 2` pixels and the numeric codes of 95_test_vectors.md V39. -/
def setup (n : Nat) (four : Bool) (order : WireOrder) (gamma : Bool) : Setup where
  pixelCount := n + 2
  channels := if four then 4 else 3
  order := order
  gamma := gamma
  reloadCount := 100
  highCode := 56
  lowCode := 28
  codeWidth := 16
  legal := by cases four <;> simp [Config.legal]

/-- A created machine with a given brightness, Colour Buffer and an all-zero Transfer Buffer. -/
def state (c : Setup) (br : Byte) (bytes : List Byte) : State :=
  { State.created c with
    br := br, cb := (List.range bytes.length).zip bytes, tb := List.replicate c.bufferLength 0 }

/-- The next state of an outcome, if it is one. -/
def after : Host.Outcome State Fault Refusal → Option State
  | .next s => some s
  | .fault _ => none
  | .refused _ => none

/-- The refusal of an outcome, if it is one. -/
def refusal : Host.Outcome State Fault Refusal → Option Refusal
  | .next _ => none
  | .fault _ => none
  | .refused r => some r

/-- The Colour Buffer bytes of an outcome, from `k`. -/
def bytes (o : Host.Outcome State Fault Refusal) (k n : Nat) : Option (List Byte) :=
  (after o).map fun s => (List.range n).map fun i => s.cbByte (k + i)

/-- `HIGH_CODE` and `LOW_CODE` of `setup`. -/
def hi : Nat := 56
def lo : Nat := 28

/-- Eight equal codes. -/
def eight (c : Nat) : List Nat := List.replicate 8 c

/-- The three-pixel scenario of 95_test_vectors.md P1 before `show`, with `te_start` answering ok. -/
def scenario : State :=
  { state (setup 1 false .grb false) 255#8 [0#8, 255#8, 0#8, 255#8, 0#8, 0#8, 0#8, 0#8, 255#8] with
    startAnswers := [true] }

/-- The same in a transfer, with the cursor at `pc`. -/
def streaming (pc : Nat) : State := { scenario with es := .busy, pc := pc, teRunning := true }

/-! ### Configurations: an ill-formed term for each check -/

theorem test_legal : (setup 0 false .grb false).toConfig.legal = true := by decide
theorem test_one_pixel_refused :
    { (setup 0 false .grb false).toConfig with pixelCount := 1 }.legal = false := by decide
theorem test_five_channels_refused :
    { (setup 0 false .grb false).toConfig with channels := 5 }.legal = false := by decide
theorem test_zero_low_code_refused :
    { (setup 0 false .grb false).toConfig with lowCode := 0 }.legal = false := by decide
theorem test_equal_codes_refused :
    { (setup 0 false .grb false).toConfig with highCode := 28 }.legal = false := by decide
theorem test_high_code_at_reload_refused :
    { (setup 0 false .grb false).toConfig with highCode := 100 }.legal = false := by decide
theorem test_reload_beyond_width_refused :
    { (setup 0 false .grb false).toConfig with codeWidth := 6 }.legal = false := by decide
theorem test_white_on_three_channels_unsupported :
    Instr.supported (setup 0 false .grb false).toConfig (.setPixelWhite 0#16 1#8) = false ∧
    Instr.supported (setup 0 false .grb false).toConfig (.fillWhite 1#8) = false ∧
    Instr.supported (setup 0 true .grb false).toConfig (.fillWhite 1#8) = true := by decide
theorem test_illegal_construction_refused :
    refusal (construct { (setup 0 false .grb false).toConfig with pixelCount := 1 }) =
      some .illegalConfiguration := by rfl

/-! ### Decoding: words written out from 30_encoding.md R81, R82 (95_test_vectors.md V70 to V82) -/

theorem test_decode_init : decodeCommand 0x000000000000#48 = .ok .init := by rfl
theorem test_decode_clear : decodeCommand 0x010000000000#48 = .ok .clear := by rfl
theorem test_decode_setBrightness :
    decodeCommand 0x0200007F0000#48 = .ok (.setBrightness 127#8) := by rfl
theorem test_decode_setPixelRgb :
    decodeCommand 0x03000100FF00#48 = .ok (.setPixelRgb 1#16 0#8 255#8 0#8) := by rfl
theorem test_decode_setPixelHsv :
    decodeCommand 0x04FFFF55FFFF#48 = .ok (.setPixelHsv 65535#16 85#8 255#8 255#8) := by rfl
theorem test_decode_setPixelWhite :
    decodeCommand 0x050003C80000#48 = .ok (.setPixelWhite 3#16 200#8) := by rfl
theorem test_decode_fillRgb :
    decodeCommand 0x060000FFFFFF#48 = .ok (.fillRgb 255#8 255#8 255#8) := by rfl
theorem test_decode_fillHsv :
    decodeCommand 0x07000055FFFF#48 = .ok (.fillHsv 85#8 255#8 255#8) := by rfl
theorem test_decode_fillWhite : decodeCommand 0x080000090000#48 = .ok (.fillWhite 9#8) := by rfl
theorem test_decode_trigger : decodeCommand 0x090000000000#48 = .ok .trigger := by rfl
theorem test_decode_isReady : decodeCommand 0x0A0000000000#48 = .ok .isReady := by rfl
theorem test_decode_evHalf : decodeEvent 0#1 = .evHalf := by rfl
theorem test_decode_evFull : decodeEvent 1#1 = .evFull := by rfl
theorem test_decode_reserved_selector :
    decodeCommand 0x0B0000000000#48 = .error .reservedSelector := by rfl
theorem test_decode_unused_field :
    decodeCommand 0x090000000001#48 = .error .unusedFieldNotZero := by rfl
/-- The word of `setPixelRGB(index, r, g, b)` bit by bit, as the pattern of 30_encoding.md R82 has it. -/
theorem test_decode_bit_pattern :
    decodeCommand 0b000000110000000000000110000000010000001000000011#48 =
      .ok (.setPixelRgb 6#16 1#8 2#8 3#8) := by rfl

/-- Each row of spec/opcode_table.json runs as the first instruction after reset. -/
theorem test_rows_step_from_reset :
    (∀ w ∈ [0x000000000000, 0x010000000000, 0x020000000000, 0x030000000000, 0x040000000000, 0x050000000000,
        0x060000000000, 0x070000000000, 0x080000000000, 0x090000000000, 0x0A0000000000],
      (decodeTableWord 48 w).isSome = true ∧ (after (step (State.reset.withFetchWord 48 w))).isSome = true) ∧
    (∀ w ∈ [0, 1], (decodeTableWord 8 w).isSome = true ∧
      (after (step (State.reset.withFetchWord 8 w))).isSome = true) := by
  constructor <;> intro w hw <;> fin_cases hw <;> exact ⟨rfl, rfl⟩

/-! ### The Color Pipeline -/

/-- 40_color_pipeline.md R110: only `BR` changes. -/
theorem test_setBrightness : (after (exec (.setBrightness 127#8) scenario)).map (fun s => (s.br, s.cb)) =
    some (127#8, scenario.cb) := by rfl

/-- 95_test_vectors.md V4, V6, V8: divisors 2, 3 and 128. -/
theorem test_bright : bright 127#8 255#8 = 127#8 ∧ bright 127#8 3#8 = 1#8 ∧ bright 84#8 128#8 = 42#8 ∧
    bright 1#8 128#8 = 1#8 ∧ bright 1#8 127#8 = 0#8 := by decide

/-- 95_test_vectors.md V3: gamma, and index 4 wraps to pixel 1. -/
theorem test_setPixelRgb_wraps :
    bytes (exec (.setPixelRgb 4#16 255#8 255#8 255#8) (state (setup 1 false .grb true) 255#8 [])) 3 3 =
      some [175#8, 255#8, 239#8] := by rfl

/-- 95_test_vectors.md V9: brightness before gamma. -/
theorem test_setPixelRgb_brightness_first :
    bytes (exec (.setPixelRgb 0#16 3#8 255#8 255#8) (state (setup 0 false .rgb true) 127#8 [])) 0 3 =
      some [1#8, 87#8, 119#8] := by rfl

/-- 95_test_vectors.md V12, V14, V15, V16, V17, V19: one hue in each sector. -/
theorem test_hsv2rgb : hsv2rgb 43#8 255#8 255#8 = (254#8, 255#8, 0#8) ∧
    hsv2rgb 170#8 255#8 255#8 = (0#8, 9#8, 255#8) ∧ hsv2rgb 255#8 255#8 255#8 = (255#8, 0#8, 15#8) ∧
    hsv2rgb 100#8 128#8 200#8 = (99#8, 200#8, 132#8) ∧ hsv2rgb 30#8 1#8 255#8 = (255#8, 254#8, 253#8) ∧
    hsv2rgb 250#8 100#8 100#8 = (100#8, 60#8, 67#8) ∧ hsv2rgb 172#8 255#8 255#8 = (0#8, 0#8, 255#8) := by
  decide

/-- 95_test_vectors.md P2: `setPixelHSV(1, 85, 255, 255)` gives the bytes of its step 3. -/
theorem test_setPixelHsv :
    bytes (exec (.setPixelHsv 1#16 85#8 255#8 255#8)
      (state (setup 0 true .rgb true) 127#8 [0#8, 0#8, 0#8, 0#8, 0#8, 0#8, 0#8, 0#8])) 4 4 =
      some [1#8, 87#8, 0#8, 0#8] := by rfl

/-- 95_test_vectors.md V20. -/
theorem test_setPixelWhite :
    bytes (exec (.setPixelWhite 3#16 200#8)
      (state (setup 0 true .rgb false) 127#8 [0#8, 0#8, 0#8, 0#8, 0#8, 0#8, 0#8, 0#8])) 0 8 =
      some [0#8, 0#8, 0#8, 0#8, 0#8, 0#8, 0#8, 100#8] := by rfl

/-- 95_test_vectors.md V21. -/
theorem test_setPixelWhite_three_channels :
    (after (exec (.setPixelWhite 0#16 200#8) scenario)).map (fun s => (s.cb, s.reply)) =
      some (scenario.cb, some (.status .paramError)) := by rfl

/-- 95_test_vectors.md V23: the white bytes stay. -/
theorem test_fillRgb :
    bytes (exec (.fillRgb 9#8 9#8 9#8)
      (state (setup 0 true .rgb false) 255#8 [1#8, 2#8, 3#8, 4#8, 5#8, 6#8, 7#8, 8#8])) 0 8 =
      some [9#8, 9#8, 9#8, 4#8, 9#8, 9#8, 9#8, 8#8] := by rfl

/-- The example of 40_color_pipeline.md R122. -/
theorem test_fillHsv :
    bytes (exec (.fillHsv 0#8 255#8 255#8) (state (setup 0 false .grb false) 255#8 [])) 0 6 =
      some [0#8, 255#8, 0#8, 0#8, 255#8, 0#8] := by rfl

/-- The example of 40_color_pipeline.md R123. -/
theorem test_fillWhite :
    bytes (exec (.fillWhite 9#8)
      (state (setup 0 true .rgb false) 255#8 [1#8, 2#8, 3#8, 4#8, 5#8, 6#8, 7#8, 8#8])) 0 8 =
      some [1#8, 2#8, 3#8, 9#8, 5#8, 6#8, 7#8, 9#8] := by rfl

/-- 95_test_vectors.md V22. -/
theorem test_fillWhite_three_channels :
    (after (exec (.fillWhite 9#8) scenario)).map (fun s => (s.cb, s.reply)) =
      some (scenario.cb, some (.status .paramError)) := by rfl

/-- 95_test_vectors.md V24. -/
theorem test_clear :
    bytes (exec .clear (state (setup 0 true .rgb false) 255#8 [1#8, 2#8, 3#8, 4#8, 5#8, 6#8, 7#8, 8#8])) 0 8 =
      some (List.replicate 8 0#8) := by rfl

/-! ### The Bit Encoder -/

/-- 95_test_vectors.md V39, V32, V33. -/
theorem test_encodeByte :
    encodeByte scenario.cfg.toConfig 0xA5#8 = [56, 28, 56, 28, 28, 56, 28, 56] ∧
    encodeByte scenario.cfg.toConfig 0x80#8 = [hi, lo, lo, lo, lo, lo, lo, lo] ∧
    encodeByte scenario.cfg.toConfig 0x01#8 = [lo, lo, lo, lo, lo, lo, lo, hi] := by decide

/-- 95_test_vectors.md V36: pixel 1 into half 1, half 0 unchanged. -/
theorem test_encodePixel :
    ((state (setup 0 false .grb false) 255#8 [0#8, 0#8, 0#8, 0x34#8, 0x12#8, 0x56#8]).encodePixel 1
        .second).tb =
      List.replicate 24 0 ++ [lo, lo, hi, hi, lo, hi, lo, lo] ++ [lo, lo, lo, hi, lo, lo, hi, lo] ++
        [lo, hi, lo, hi, lo, hi, hi, lo] := by decide

/-- 95_test_vectors.md V38. -/
theorem test_zeroHalf :
    ({ scenario with tb := List.replicate 48 hi }.zeroHalf .first).tb =
      List.replicate 24 0 ++ List.replicate 24 hi := by decide

/-! ### The Streaming Engine -/

/-- The example of 42_streaming_engine.md R150, and `WIRE` after a reset (70_reset_and_hazards.md R230). -/
theorem test_init :
    (after (exec .init { scenario with wire := [lo, hi] })).map (fun s => (s.es, s.pc, s.cb, s.wire)) =
      some (.ready, 0, scenario.cb, []) := by rfl

/-- 42_streaming_engine.md R150: no meaning while `BUSY`. -/
theorem test_init_while_busy : refusal (exec .init (streaming 2)) = some .initWhileBusy := by rfl

/-- The example of 42_streaming_engine.md R151. -/
theorem test_trigger : (after (exec .trigger scenario)).map (fun s => (s.es, s.pc, s.tb, s.reply)) =
    some (.busy, 2, eight lo ++ eight hi ++ eight lo ++ eight hi ++ eight lo ++ eight lo,
      some (.status .ok)) := by rfl

/-- 95_test_vectors.md V43, P4: start failure. -/
theorem test_trigger_start_error :
    (after (exec .trigger { scenario with startAnswers := [false] })).map
        (fun s => (s.es, s.pc, s.teRunning, s.reply)) =
      some (.busy, 2, false, some (.status .transferStartError)) := by rfl

/-- 95_test_vectors.md V50, and the codes of 30_encoding.md R88. -/
theorem test_isReady : (after (exec .isReady (streaming 2))).map (fun s => s.reply.map Reply.code) =
    some (some 0#2) := by rfl

/-- The example of 42_streaming_engine.md R154 (95_test_vectors.md V44). -/
theorem test_evHalf : (after (exec .evHalf (streaming 2))).map (fun s => (s.pc, s.tb)) =
    some (3, eight lo ++ eight lo ++ eight hi ++ List.replicate 24 0) := by rfl

/-- 95_test_vectors.md V48: with the cursor at `N + 2`, nothing. -/
theorem test_evHalf_nothing : (after (exec .evHalf (streaming 5))) = some (streaming 5) := by rfl

/-- 95_test_vectors.md V45. -/
theorem test_evFull_zero_refill :
    (after (exec .evFull { streaming 3 with tb := List.replicate 48 hi })).map (fun s => (s.pc, s.es, s.tb)) =
      some (4, .busy, List.replicate 24 hi ++ List.replicate 24 0) := by rfl

/-- 95_test_vectors.md V47. -/
theorem test_evFull_terminates :
    (after (exec .evFull (streaming 5))).map (fun s => (s.pc, s.es, s.teRunning, s.tb)) =
      some (0, .ready, false, List.replicate 48 0) := by rfl

/-- 60_exceptions.md R211. -/
theorem test_event_outside_transfer :
    refusal (exec .evHalf scenario) = some .eventOutsideTransfer := by rfl

/-- 43_serializer.md R185: the last code of each half raises its event, and the position wraps. -/
theorem test_emit_last_of_half :
    (after (step { streaming 2 with tePos := 23 })).map (fun s => (s.tePos, s.event)) = some (24, some 0#1) ∧
    (after (step { streaming 2 with tePos := 47 })).map (fun s => (s.tePos, s.event)) = some (0, some 1#1) ∧
    (after (step { streaming 2 with tePos := 22 })).map (fun s => (s.tePos, s.event)) = some (23, none) :=
  ⟨rfl, rfl, rfl⟩

/-! ### Witnesses: states and operands that meet the hypotheses of each statement -/

/-- A transfer with the half-consumed event raised, the full-consumed event raised, and the terminating
event raised. -/
def halfRaised : State := { streaming 2 with event := some 0#1, tePos := 24 }
def fullRaised : State := { streaming 3 with event := some 1#1, tePos := 0 }
def lastRaised : State := { streaming 5 with event := some 1#1, tePos := 0 }

/-- A failed start: `BUSY` with the Transfer Engine stopped. -/
def failed : State := { scenario with es := .busy, pc := 2 }

/-- A four-channel machine with two pixels. -/
def four : State := state (setup 0 true .rgb false) 127#8 [1#8, 2#8, 3#8, 4#8, 5#8, 6#8, 7#8, 8#8]

/-- A caller's next command. -/
def commanded (s : State) (w : CommandWord) : State := { s with inputs := [.command w] }

theorem inv_streaming2 : (streaming 2).Inv :=
  ⟨by decide, by decide, by decide, by decide, by decide, by decide, by decide⟩
theorem inv_streaming4 : (streaming 4).Inv :=
  ⟨by decide, by decide, by decide, by decide, by decide, by decide, by decide⟩
theorem inv_halfRaised : halfRaised.Inv :=
  ⟨by decide, by decide, by decide, by decide, by decide, by decide, by decide⟩
theorem inv_fullRaised : fullRaised.Inv :=
  ⟨by decide, by decide, by decide, by decide, by decide, by decide, by decide⟩
theorem inv_lastRaised : lastRaised.Inv :=
  ⟨by decide, by decide, by decide, by decide, by decide, by decide, by decide⟩
theorem inv_commanded : (commanded scenario 0x090000000000#48).Inv :=
  ⟨by decide, by decide, by decide, by decide, by decide, by decide, by decide⟩

theorem witness_DecodedCommandIsTheWordOfItsOperation :
    decodeCommand 0x0A0000000000#48 = .ok .isReady ∧ decodeCommand 0x0200007F0000#48 = .ok (.setBrightness 127#8) :=
  ⟨rfl, rfl⟩

theorem witness_DecoderFollowsTheOpcodeTable : ∃ row ∈ commandRows,
    row.accepts 0x0200007F0000#48 = true ∧ row.accepts 0x0200007F0001#48 = false := by decide

theorem witness_ReservedWordsAreRefused :
    0x0B ≤ (opField 0x0B0000000000#48).toNat ∧ 0x0B ≤ (opField 0xFF0000000000#48).toNat ∧
    (opField 0x0A0000000001#48).toNat ≤ 0x0A ∧
    (∀ row ∈ commandRows, row.accepts 0x0A0000000001#48 = false) ∧
    (commanded scenario 0xFF0000000000#48).event = none ∧
    (commanded scenario 0xFF0000000000#48).inputs = .command 0xFF0000000000#48 :: [] ∧
    decodeCommand 0xFF0000000000#48 = .error .reservedSelector ∧
    decodeCommand 0x0A0000000001#48 = .error .unusedFieldNotZero := by decide

theorem witness_StepRunsTheDecodedInstruction :
    halfRaised.event = some 0#1 ∧ fullRaised.event = some 1#1 ∧
    (commanded scenario 0x090000000000#48).event = none ∧
    (commanded scenario 0x090000000000#48).inputs = .command 0x090000000000#48 :: [] ∧
    decodeCommand 0x090000000000#48 = .ok .trigger := ⟨rfl, rfl, rfl, rfl, rfl⟩

theorem witness_IdleMachineDoesNothing :
    State.reset.event = none ∧ State.reset.teRunning = false ∧
    (∀ w rest, State.reset.inputs ≠ .command w :: rest) ∧
    (∀ w rest, { scenario with inputs := [.pulse] }.inputs ≠ .command w :: rest) :=
  ⟨rfl, rfl, fun _ _ h => (nomatch h), fun _ _ h => (nomatch h)⟩

/-- A transfer with the Transfer Engine at position `p`. -/
def emitting (p : Nat) : State := { streaming 2 with tePos := p }

theorem witness_EmissionAppendsOneCodeAndRaisesEvents :
    (∀ p ∈ [0, 23, 24, 47], (emitting p).BufferOk ∧ (emitting p).tePos < (emitting p).cfg.bufferLength ∧
      (emitting p).teRunning = true ∧ (emitting p).event = none ∧ (emitting p).inputs = []) ∧
    (emitting 23).tePos + 1 = (emitting 23).cfg.half ∧
    (emitting 47).tePos + 1 = (emitting 47).cfg.bufferLength ∧
    ((emitting 24).tePos + 1 ≠ (emitting 24).cfg.half ∧
      (emitting 24).tePos + 1 ≠ (emitting 24).cfg.bufferLength) := by decide

theorem witness_BrightnessLawIsExact : 128 ≤ (128#8).toNat ∧ 128 ≤ (255#8).toNat := by decide

theorem witness_GammaLawIsExact : (setup 0 false .grb true).toConfig.gamma = true ∧
    (setup 0 false .grb false).toConfig.gamma = false := ⟨rfl, rfl⟩

theorem witness_SetPixelRgbStoresTheScaledColour : scenario.cfg.order = .grb ∧ four.cfg.order = .rgb ∧
    (∀ j < 3, 3 ≠ recordAddress scenario.cfg.toConfig (pixelOf scenario.cfg.toConfig 3#16) j) ∧
    (∀ j < 3, 3 ≠ recordAddress four.cfg.toConfig (pixelOf four.cfg.toConfig 0#16) j) := by decide

theorem witness_HsvConversionIsExact : (1#8 : Byte) ≠ 0#8 ∧
    ((42#8 : Byte).toNat / 43 = 0 ∧ (43#8 : Byte).toNat / 43 = 1 ∧ (86#8 : Byte).toNat / 43 = 2 ∧
      (171#8 : Byte).toNat / 43 = 3 ∧ (172#8 : Byte).toNat / 43 = 4 ∧ (215#8 : Byte).toNat / 43 = 5 ∧
      (255#8 : Byte).toNat / 43 = 5) := by decide

theorem witness_SetPixelHsvDelegatesToSetPixelRgb :
    ∀ j < 3, 0 ≠ recordAddress scenario.cfg.toConfig (pixelOf scenario.cfg.toConfig 2#16) j := by decide

theorem witness_SetPixelWhiteStoresTheWhiteByte : four.cfg.channels = 4 ∧ four.cfg.pixelCount = 2 ∧
    four.br = 127#8 ∧ scenario.cfg.channels = 3 ∧ 0 ≠ 4 * ((65535#16 : Index).toNat % four.cfg.pixelCount) + 3 := by
  decide

theorem witness_IndexWrapsModuloPixelCount :
    (65535#16 : Index).toNat % scenario.cfg.pixelCount = (0#16 : Index).toNat % scenario.cfg.pixelCount := by
  decide

theorem witness_FillRgbStoresEveryPixel :
    2 < scenario.cfg.pixelCount ∧
    (∀ i < four.cfg.pixelCount, ∀ j < 3, 7 ≠ recordAddress four.cfg.toConfig i j) ∧
    (2#16 : Index).toNat < scenario.cfg.pixelCount ∧
    (∃ u, exec (.setPixelRgb 2#16 1#8 2#8 3#8) scenario = .next u) ∧
    ((setup 0 false .rgb false).pixelCount = 2 ∧ (setup 0 false .rgb false).channels = 3 ∧
      (setup 0 false .rgb false).order = .rgb ∧ (state (setup 0 false .rgb false) 255#8 []).br = 255#8 ∧
      (setup 0 false .rgb false).gamma = false) :=
  ⟨by decide, by decide, by decide, ⟨_, rfl⟩, rfl, rfl, rfl, rfl, rfl⟩

theorem witness_FillHsvEqualsPerPixelSetPixelHsv :
    (∀ i < four.cfg.pixelCount, ∀ j < 3, 7 ≠ recordAddress four.cfg.toConfig i j) ∧
    (2#16 : Index).toNat < scenario.cfg.pixelCount ∧
    (∃ u, exec (.setPixelHsv 2#16 1#8 2#8 3#8) scenario = .next u) ∧
    ((setup 0 false .grb false).pixelCount = 2 ∧ (setup 0 false .grb false).channels = 3 ∧
      (setup 0 false .grb false).order = .grb ∧ (state (setup 0 false .grb false) 255#8 []).br = 255#8 ∧
      (setup 0 false .grb false).gamma = false) :=
  ⟨by decide, by decide, ⟨_, rfl⟩, rfl, rfl, rfl, rfl, rfl⟩

theorem witness_FillWhiteStoresEveryWhiteByte : four.cfg.channels = 4 ∧ scenario.cfg.channels = 3 ∧
    1 < four.cfg.pixelCount ∧ (∀ i < four.cfg.pixelCount, 6 ≠ 4 * i + 3) := by decide

theorem witness_ClearZeroesTheColourBuffer : 8 < scenario.cfg.colourBytes ∧ scenario.cfg.colourBytes ≤ 9 ∧
    ∃ t u v, exec .clear four = .next t ∧ exec (.fillRgb 0#8 0#8 0#8) four = .next u ∧
      exec (.fillWhite 0#8) u = .next v := ⟨by decide, by decide, _, _, _, rfl, rfl, rfl⟩

theorem witness_BusyWriteIsFetchedOldOrNew : (streaming 2).es = .busy ∧ (streaming 2).raced = [] ∧
    (∃ t, exec (.setPixelRgb 2#16 1#8 2#8 3#8) (streaming 2) = .next t) ∧
    scenario.RaceOk ∧ scenario.es = .ready := ⟨rfl, rfl, ⟨_, rfl⟩, fun _ => rfl, rfl⟩

theorem witness_EncodeByteIsMsbFirst : 0 < 8 ∧ 7 < 8 := by decide

theorem witness_EncodePixelWritesOneHalf : scenario.tb.length = scenario.cfg.bufferLength ∧
    2 < scenario.cfg.channels ∧ scenario.raced = [] ∧
    23 < Half.second.base scenario.cfg.toConfig ∧
    Half.first.base scenario.cfg.toConfig + scenario.cfg.half ≤ 24 := by decide

theorem witness_ZeroHalfClearsOneHalf : scenario.tb.length = scenario.cfg.bufferLength ∧
    23 < scenario.cfg.half ∧ scenario.cfg.channels = 3 ∧
    23 < Half.second.base scenario.cfg.toConfig ∧
    Half.first.base scenario.cfg.toConfig + scenario.cfg.half ≤ 24 := by decide

theorem witness_EncodingIsInjective :
    encodeRecord scenario.cfg.toConfig [1#8] = encodeRecord scenario.cfg.toConfig [1#8] ∧
    hi ∈ encodeRecord scenario.cfg.toConfig [1#8] := by decide

theorem witness_InitResetsTheControlState : scenario.es = .ready ∧ (streaming 2).es = .busy := ⟨rfl, rfl⟩

/-- A `READY` state after a transfer: codes on the wire, the Transfer Engine stopped at position 0. -/
def ended : State := { scenario with wire := [hi, lo, 0] }

theorem witness_InitLeavesTheResetState : ended.SerializerOk ∧ ended.IdleOk ∧ ended.es = .ready ∧
    ended.wire ≠ [] := ⟨by decide, by decide, rfl, by decide⟩

theorem witness_AcceptedShowStartsATransfer : scenario.es = .ready ∧ scenario.teRunning = false ∧
    scenario.startAnswers = true :: [] ∧ { scenario with startAnswers := [false] }.startAnswers = false :: [] :=
  ⟨rfl, rfl, rfl, rfl⟩

theorem witness_BusyShowPerformsNoWork : (streaming 2).es = .busy ∧
    { scenario with teRunning := true }.teIdle = false := ⟨rfl, rfl⟩

theorem witness_IsReadyReturnsTheEngineState :
    (∃ t u, scenario.es = .ready ∧ scenario.teIdle = true ∧ exec .trigger scenario = .next t ∧
      exec .isReady t = .next u) ∧
    { scenario with teRunning := true }.es = .ready ∧ { scenario with teRunning := true }.teIdle = false ∧
    scenario.SerializerOk := ⟨⟨_, _, rfl, rfl, rfl, rfl⟩, rfl, rfl, by decide⟩

theorem witness_EvHalfRefillsTheFirstHalf : (streaming 2).inTransfer = true ∧
    (streaming 2).pc < (streaming 2).cfg.pixelCount ∧
    ((streaming 3).inTransfer = true ∧ (streaming 3).cfg.pixelCount ≤ (streaming 3).pc) ∧
    ((streaming 4).inTransfer = true ∧ (streaming 4).pc < (streaming 4).cfg.pixelCount + 2) ∧
    ((streaming 5).inTransfer = true ∧ (streaming 5).cfg.pixelCount + 2 ≤ (streaming 5).pc) ∧
    ((streaming 2).raced = [] ∧ (streaming 2).cfg.pixelCount = 3 ∧ (streaming 2).cfg.channels = 3 ∧
      (streaming 2).record 2 = [0#8, 0#8, 255#8]) := by decide

theorem witness_EvFullRefillsTheSecondHalf : (streaming 2).inTransfer = true ∧
    (streaming 2).pc < (streaming 2).cfg.pixelCount ∧ (streaming 2).raced = [] ∧
    ((streaming 3).inTransfer = true ∧ (streaming 3).cfg.pixelCount ≤ (streaming 3).pc) ∧
    ((streaming 4).inTransfer = true ∧ (streaming 4).pc < (streaming 4).cfg.pixelCount + 2) := by decide

theorem witness_EvFullTerminatesTheTransfer : (streaming 5).inTransfer = true ∧
    (streaming 5).cfg.pixelCount + 2 ≤ (streaming 5).pc := by decide

theorem witness_EventOutsideTransferIsRefused : scenario.es = .ready ∧ failed.teRunning = false :=
  ⟨rfl, rfl⟩

theorem witness_CallbackWritesOnlyTheHalfNotEmitted :
    halfRaised.BufferOk ∧ (∃ t, step halfRaised = .next t) ∧ halfRaised.event = some 0#1 ∧
    fullRaised.BufferOk ∧ (∃ t, step fullRaised = .next t) ∧ fullRaised.event = some 1#1 :=
  ⟨by decide, ⟨_, rfl⟩, rfl, by decide, ⟨_, rfl⟩, rfl⟩

theorem witness_EngineReadsOnlyTheStagedRecords :
    ((streaming 2).raced = [] ∧
      (∀ j < 3, ({ streaming 2 with cb := (streaming 2).cb.write 0 9#8 } : State).cbByte
        (recordAddress (streaming 2).cfg.toConfig 2 j) =
          (streaming 2).cbByte (recordAddress (streaming 2).cfg.toConfig 2 j)) ∧
      (∃ t, exec .evHalf (streaming 2) = .next t) ∧ ∃ t, exec .evFull (streaming 2) = .next t) ∧
    ((∀ p < 2, ∀ j < 3, ({ scenario with cb := scenario.cb.write 6 9#8 } : State).cbByte
        (recordAddress scenario.cfg.toConfig p j) =
          scenario.cbByte (recordAddress scenario.cfg.toConfig p j)) ∧
      ∃ t, exec .trigger scenario = .next t) :=
  ⟨⟨rfl, by decide, ⟨_, rfl⟩, _, rfl⟩, by decide, _, rfl⟩

theorem witness_CursorIsWrittenOnlyAsListed :
    (scenario.ControlOk ∧ ∃ t, exec .trigger scenario = .next t) ∧
    ((streaming 4).ControlOk ∧ ∃ t, exec .evHalf (streaming 4) = .next t) ∧
    ((streaming 5).ControlOk ∧ ∃ t, exec .evFull (streaming 5) = .next t) ∧
    ((streaming 2).fetched = none ∧ ∃ t, step (streaming 2) = .next t) :=
  ⟨⟨by decide, _, rfl⟩, ⟨by decide, _, rfl⟩, ⟨by decide, _, rfl⟩, rfl, _, rfl⟩

theorem witness_EngineStateHasNoOtherTransitions :
    (∃ t, exec .trigger scenario = .next t ∧ scenario.es = .ready ∧ t.es = .busy) ∧
    (∃ t, exec .evFull (streaming 5) = .next t ∧ (streaming 5).es = .busy ∧ t.es = .ready) ∧
    ((streaming 2).fetched = none ∧ ∃ t, step (streaming 2) = .next t) :=
  ⟨⟨_, rfl, rfl, rfl⟩, ⟨_, rfl, rfl, rfl⟩, rfl, _, rfl⟩

theorem witness_BuffersHaveOnlyTheirWriters :
    (∃ t, exec .evHalf (streaming 2) = .next t) ∧ (∃ t, exec .evFull (streaming 3) = .next t) ∧
    (streaming 3).tb.length = (streaming 3).cfg.bufferLength ∧ ∃ t, exec .init ended = .next t :=
  ⟨⟨_, rfl⟩, ⟨_, rfl⟩, rfl, _, rfl⟩

theorem witness_ConfigurationNeverChanges : ∃ t, step halfRaised = .next t := ⟨_, rfl⟩

theorem witness_StatusTableHolds : (∃ t, exec .clear scenario = .next t) ∧
    (∃ t, exec (.fillWhite 1#8) four = .next t) ∧ four.cfg.channels = 4 ∧
    (∃ t, exec (.setPixelWhite 0#16 1#8) scenario = .next t) ∧ scenario.cfg.channels = 3 ∧
    (∃ t, exec .evHalf (streaming 2) = .next t) ∧ Status.transferStartError ≠ .paramError :=
  ⟨⟨_, rfl⟩, ⟨_, rfl⟩, rfl, ⟨_, rfl⟩, rfl, ⟨_, rfl⟩, by decide⟩

theorem witness_StatusCodesFollowTheTable : ∃ t, exec .isReady scenario = .next t := ⟨_, rfl⟩

theorem witness_AtMostOneTransferInFlight :
    ((streaming 2).es = .busy ∧ ∃ t, step (streaming 2) = .next t) ∧
    (lastRaised.es = .busy ∧ ∃ t, step lastRaised = .next t) :=
  ⟨⟨rfl, _, rfl⟩, rfl, _, rfl⟩

theorem witness_FailedStartLeavesTheEngineBusy :
    failed.es = .busy ∧ failed.teRunning = false ∧ failed.event = none ∧ ∃ t, step failed = .next t :=
  ⟨rfl, rfl, rfl, _, rfl⟩

theorem witness_WireGrowsByLegalCodes :
    ((streaming 2).SerializerOk ∧ (streaming 2).CodesOk ∧ ∃ t, step (streaming 2) = .next t) ∧
    ((commanded ended 0x000000000000#48).SerializerOk ∧ (commanded ended 0x000000000000#48).CodesOk ∧
      ∃ t, step (commanded ended 0x000000000000#48) = .next t ∧ t.wire = []) :=
  ⟨⟨by decide, by decide, _, rfl⟩, by decide, by decide, _, rfl, rfl⟩

theorem witness_IllegalConfigurationIsRefused :
    (2 ≤ (setup 0 false .grb false).pixelCount ∧ (setup 0 false .grb false).lowCode <
      (setup 0 false .grb false).highCode) ∧
    { (setup 0 false .grb false).toConfig with channels := 2 }.legal = false := by decide

theorem witness_ColourBufferStaysCanonical : four.MemoryOk ∧
    ∃ t, step (commanded four 0x050001C80000#48) = .next t := ⟨by decide, _, rfl⟩

theorem witness_ControlInvariantIsKept :
    (halfRaised.ControlOk ∧ ∃ t, step halfRaised = .next t) ∧
    (lastRaised.ControlOk ∧ ∃ t, step lastRaised = .next t) :=
  ⟨⟨by decide, _, rfl⟩, by decide, _, rfl⟩

theorem witness_MachineInvariantIsKept :
    (halfRaised.Inv ∧ ∃ t, step halfRaised = .next t) ∧ (fullRaised.Inv ∧ ∃ t, step fullRaised = .next t) ∧
    ((commanded scenario 0x090000000000#48).Inv ∧
      ∃ t, step (commanded scenario 0x090000000000#48) = .next t) ∧
    (streaming 4).Inv ∧ ∃ t, step (streaming 4) = .next t :=
  ⟨⟨inv_halfRaised, _, rfl⟩, ⟨inv_fullRaised, _, rfl⟩, ⟨inv_commanded, _, rfl⟩, inv_streaming4, _, rfl⟩

theorem witness_TransferEngineRestsAtPositionZero :
    (lastRaised.Inv ∧ lastRaised.IdleOk ∧ ∃ t, step lastRaised = .next t ∧ t.es = .ready) ∧
    ((commanded scenario 0x090000000000#48).Inv ∧ (commanded scenario 0x090000000000#48).IdleOk ∧
      ∃ t, step (commanded scenario 0x090000000000#48) = .next t) :=
  ⟨⟨inv_lastRaised, by decide, _, rfl, rfl⟩, inv_commanded, by decide, _, rfl⟩

theorem witness_TransferBufferIsZeroAtTheEnd :
    lastRaised.Inv ∧ lastRaised.es = .busy ∧ ∃ t, step lastRaised = .next t ∧ t.es = .ready :=
  ⟨inv_lastRaised, rfl, _, rfl, rfl⟩

theorem witness_NoStepFaults : (streaming 2).Inv ∧ lastRaised.Inv := ⟨inv_streaming2, inv_lastRaised⟩

theorem witness_PhasesFollowTheLifecycle :
    ((commanded scenario 0x090000000000#48).Inv ∧ (commanded scenario 0x090000000000#48).phase = .idle) ∧
    (halfRaised.Inv ∧ halfRaised.phase = .armed) ∧ (fullRaised.Inv ∧ fullRaised.phase = .streaming) ∧
    (lastRaised.Inv ∧ lastRaised.phase = .resetTail) ∧
    ∃ t, step halfRaised = .next t ∧ t.phase = .streaming :=
  ⟨⟨inv_commanded, rfl⟩, ⟨inv_halfRaised, rfl⟩, ⟨inv_fullRaised, rfl⟩, ⟨inv_lastRaised, rfl⟩, _, rfl, rfl⟩

/-- Two pixels: from armed straight into the reset tail. -/
theorem witness_PhasesFollowTheLifecycle_two_pixels :
    let s : State := { four with es := .busy, pc := 2, teRunning := true, tePos := 32, event := some 0#1 }
    s.cfg.pixelCount = 2 ∧ s.Inv ∧ s.phase = .armed ∧ ∃ t, step s = .next t ∧ t.phase = .resetTail :=
  ⟨rfl, ⟨by decide, by decide, by decide, by decide, by decide, by decide, by decide⟩, rfl, _, rfl, rfl⟩

theorem witness_FrameAppearsOnTheWire : scenario.es = .ready ∧ scenario.teRunning = false ∧
    scenario.event = none ∧ scenario.startAnswers = true :: [] ∧
    (∀ x ∈ [Input.pulse, .command 0x0A0000000000#48, .command 0x090000000000#48, .command 0x0200007F0000#48],
      x.keepsContract = true) ∧ Input.keepsContract (.command 0x010000000000#48) = false := by decide

theorem witness_TransferTakesItsNumberOfEvents : scenario.es = .ready ∧ scenario.teRunning = false ∧
    scenario.event = none ∧ scenario.startAnswers = true :: [] ∧ scenario.inputs = [] :=
  ⟨rfl, rfl, rfl, rfl, rfl⟩

end Sys2Proof.Tests
end

section
/-! PROOF. The scope of the block (00_scope.md): where a step comes from, that none faults under the
invariant, how the lifecycle phases follow one another, and which configurations can be constructed. -/

namespace Sys2Proof.Machine

/-! ### What a step runs -/

/-- A raised event runs its callback (43_serializer.md R185). -/
theorem step_of_event {s : State} {e : EventWord} (he : s.event = some e) :
    step s = exec (decodeEvent e) s.takeEvent := by
  have hf : s.fetched = some (.event e, s.takeEvent) := by simp only [State.fetched, he]
  simp only [step, hf, decode]

/-- With no event raised the caller's next command word is taken from its port (00_scope.md R12). -/
theorem fetched_of_command {s : State} {w : CommandWord} {rest : List Input} (he : s.event = none)
    (hi : s.inputs = .command w :: rest) :
    s.fetched = some (.command w, { s with inputs := rest }) := by
  simp only [State.fetched, he, hi]

theorem step_of_command {s : State} {w : CommandWord} {rest : List Input} {i : Instr}
    (he : s.event = none) (hi : s.inputs = .command w :: rest) (hd : decodeCommand w = .ok i) :
    step s = exec i { s with inputs := rest } := by
  simp only [step, fetched_of_command he hi, decode, hd]

/-- Settles O6: a step is `exec` of the fetched word's instruction, for an event and for a command. -/
theorem stepRunsTheDecodedInstruction : Obligations.StepRunsTheDecodedInstruction :=
  ⟨fun _ _ he => step_of_event he, fun _ _ _ _ he hi hd => step_of_command he hi hd⟩

/-! ### No step faults -/

/-- An instruction answers a next state or a refusal: only an emission can fault. -/
theorem exec_ne_fault (i : Instr) (s : State) (r : Fault) : exec i s ≠ .fault r := by
  cases i
  case init =>
    simp only [exec, execInit]
    split_ifs <;> nofun
  case evHalf =>
    simp only [exec, execEvHalf]
    split_ifs <;> nofun
  case evFull =>
    simp only [exec, execEvFull]
    split_ifs <;> nofun
  all_goals exact fun h => nomatch h

/-- An emission from a position inside `TB` finds a code (43_serializer.md R184, R185). -/
theorem emit_ne_fault {s : State} (hpos : s.tePos < s.tb.length) (r : Fault) : s.emit ≠ .fault r := by
  unfold State.emit
  rw [List.getElem?_eq_getElem hpos]
  split_ifs <;> nofun

/-- A fault of a step could only come from its emission. -/
theorem step_ne_fault {s : State} (hpos : s.tePos < s.tb.length) (r : Fault) : step s ≠ .fault r := by
  unfold step
  split
  · split
    · exact exec_ne_fault _ _ r
    · nofun
  · exact emit_ne_fault (s := { s with inputs := s.inputs.tail }) hpos r

/-- Settles O53: the invariant keeps `TE.pos` an index of `TB`. -/
theorem noStepFaults : Obligations.NoStepFaults := by
  rintro s ⟨-, ⟨hlength, -⟩, -, ⟨-, hpos, -⟩, -⟩ r
  exact step_ne_fault (hpos.trans_eq hlength.symm) r

/-! ### The control state and the lifecycle -/

/-- What a step can do to `(ES, PC)`, with `n` pixels (10_state.md R31, R33). -/
inductive ControlMove (n : Nat) (es : EngineState) (pc : Nat) (es' : EngineState) (pc' : Nat) : Prop where
  /-- Neither is written. -/
  | stay (hes : es' = es) (hpc : pc' = pc)
  /-- `init` (42_streaming_engine.md R150). -/
  | reset (ready : es = .ready) (hes : es' = .ready) (hpc : pc' = 0)
  /-- An accepted `show` (R151). -/
  | start (ready : es = .ready) (hes : es' = .busy) (hpc : pc' = 2)
  /-- A callback that stages one more half (R154, R156). -/
  | refill (busy : es = .busy) (more : pc < n + 2) (hes : es' = .busy) (hpc : pc' = pc + 1)
  /-- The callback that ends the transfer (R158). -/
  | finish (busy : es = .busy) (done : n + 2 ≤ pc) (hes : es' = .ready) (hpc : pc' = 0)

theorem ExecNext.cfg {s t : State} {i : Instr} (h : ExecNext s i t) : t.cfg = s.cfg := by
  cases h with
  | colour _ u r stores _ => exact stores.cfg
  | halfRefill | fullRefill => exact State.refill_cfg ..
  | _ => rfl

theorem ExecNext.controlMove {s t : State} {i : Instr} (h : ExecNext s i t) :
    ControlMove s.cfg.pixelCount s.es s.pc t.es t.pc := by
  cases h with
  | init ready => exact .reset ready rfl rfl
  | showAccepted ready _ => exact .start ready rfl rfl
  | colour _ u r stores _ => exact .stay (by rw [stores.1]; rfl) (by rw [stores.1]; rfl)
  | halfRefill transfer more | fullRefill transfer more =>
    have busy := ((State.inTransfer_iff s).mp transfer).1
    exact .refill busy more ((State.refill_es ..).trans busy) (State.refill_pc ..)
  | fullTerminate transfer done => exact .finish ((State.inTransfer_iff s).mp transfer).1 done rfl rfl
  | setBrightness | showBusy | isReady | halfNothing => exact .stay rfl rfl

/-- An emission touches neither the configuration nor the control state (43_serializer.md R185). -/
theorem emit_control {s t : State} (h : s.emit = .next t) : t.cfg = s.cfg ∧ t.es = s.es ∧ t.pc = s.pc := by
  rcases emit_next h with ⟨-, rfl⟩ | ⟨-, code, -, rfl⟩
  · exact ⟨rfl, rfl, rfl⟩
  · exact ⟨State.advance_cfg _, State.advance_es _, State.advance_pc _⟩

/-- What a step can do to the configuration and to the control state. -/
theorem step_control {s t : State} (h : step s = .next t) :
    t.cfg = s.cfg ∧ ControlMove s.cfg.pixelCount s.es s.pc t.es t.pc := by
  rcases step_next h with ⟨-, h⟩ | ⟨-, h⟩ | ⟨w, rest, i, -, -, -, h⟩ | ⟨-, -, h⟩
  -- In the three fetched cases the state given to `exec` agrees with `s` on all that is claimed.
  iterate 3 exact ⟨(exec_next h).cfg, (exec_next h).controlMove⟩
  · obtain ⟨hcfg, hes, hpc⟩ := emit_control h
    exact ⟨hcfg, .stay hes hpc⟩

theorem State.phase_congr {s t : State} (hcfg : t.cfg = s.cfg) (hes : t.es = s.es) (hpc : t.pc = s.pc) :
    t.phase = s.phase := by
  unfold State.phase; rw [hcfg, hes, hpc]

theorem State.phase_of_ready {s : State} (h : s.es = .ready) : s.phase = .idle := by
  unfold State.phase; rw [h]

theorem State.phase_of_busy {s : State} (h : s.es = .busy) : s.phase =
    if s.pc ≤ 2 then .armed else if s.pc ≤ s.cfg.pixelCount then .streaming else .resetTail := by
  unfold State.phase; rw [h]

/-- The phases around one refill: the cursor leaves 2 with the first event and passes `N` with the first
zero half, which are the same event for two pixels. -/
theorem phase_of_refill {s t : State} (hcfg : t.cfg = s.cfg) (hs : s.es = .busy) (ht : t.es = .busy)
    (hlow : 2 ≤ s.pc) (hpc : t.pc = s.pc + 1) :
    t.phase = s.phase ∨
    (s.phase = .armed ∧ (t.phase = .streaming ∨ s.cfg.pixelCount = 2 ∧ t.phase = .resetTail)) ∨
    (s.phase = .streaming ∧ t.phase = .resetTail) := by
  have hN := s.cfg.two_le_pixelCount
  rw [State.phase_of_busy hs, State.phase_of_busy ht, hcfg, hpc, if_neg (by omega : ¬ s.pc + 1 ≤ 2)]
  by_cases harmed : s.pc ≤ 2
  · by_cases htwo : s.cfg.pixelCount = 2
    · rw [if_pos harmed, if_neg (by omega)]
      exact .inr (.inl ⟨rfl, .inr ⟨htwo, rfl⟩⟩)
    · rw [if_pos harmed, if_pos (by omega)]
      exact .inr (.inl ⟨rfl, .inl rfl⟩)
  · rw [if_neg harmed]
    rcases Nat.lt_trichotomy s.pc s.cfg.pixelCount with hlt | heq | hgt
    · rw [if_pos (by omega), if_pos (by omega)]
      exact .inl rfl
    · rw [if_neg (by omega), if_pos (by omega)]
      exact .inr (.inr ⟨rfl, rfl⟩)
    · rw [if_neg (by omega), if_neg (by omega)]
      exact .inl rfl

/-- Settles O54, by the cases of what a step can do to `(ES, PC)`. -/
theorem phasesFollowTheLifecycle : Obligations.PhasesFollowTheLifecycle := by
  rintro s t ⟨-, -, ⟨-, hbusy⟩, -⟩ h
  obtain ⟨hcfg, hmove⟩ := step_control h
  cases hmove with
  | stay hes hpc => exact .inl (State.phase_congr hcfg hes hpc)
  | reset ready hes => exact .inl ((State.phase_of_ready hes).trans (State.phase_of_ready ready).symm)
  | start ready hes hpc =>
    have harmed : t.phase = .armed := by rw [State.phase_of_busy hes, if_pos hpc.le]
    exact .inr (.inl ⟨State.phase_of_ready ready, harmed⟩)
  | refill busy _ hes hpc =>
    rcases phase_of_refill hcfg busy hes (hbusy busy).1 hpc with hp | hp | hp
    · exact .inl hp
    · exact .inr (.inr (.inl hp))
    · exact .inr (.inr (.inr (.inl hp)))
  | finish busy done hes =>
    have hN := s.cfg.two_le_pixelCount
    have htail : s.phase = .resetTail := by
      rw [State.phase_of_busy busy, if_neg (by omega), if_neg (by omega)]
    exact .inr (.inr (.inr (.inr ⟨htail, State.phase_of_ready hes⟩)))

/-! ### Construction -/

/-- A legal configuration is created as it stands. -/
theorem construct_of_legal {c : Config} (h : c.legal = true) :
    construct c = .next (State.created ⟨c, h⟩) := dif_pos h

theorem construct_of_illegal {c : Config} (h : c.legal = false) :
    construct c = .refused .illegalConfiguration := dif_neg (by simp [h])

theorem construct_isNext_iff (c : Config) :
    (∃ s, construct c = .next s ∧ s.cfg.toConfig = c) ↔ c.legal = true := by
  constructor
  · rintro ⟨s, -, rfl⟩
    exact s.cfg.legal
  · exact fun h => ⟨_, construct_of_legal h, rfl⟩

theorem bufferLength_eq_48_or_64 (c : Setup) : c.bufferLength = 48 ∨ c.bufferLength = 64 := by
  unfold Config.bufferLength
  rcases c.channels_eq with h | h <;> rw [h]
  · exact .inl rfl
  · exact .inr rfl

/-- Settles O46: `construct` succeeds by the check `Config.legal`, which is the rule's list. -/
theorem illegalConfigurationIsRefused : Obligations.IllegalConfigurationIsRefused := by
  refine ⟨fun c => ?_, fun c => construct_of_illegal, fun c => ?_⟩
  · rw [construct_isNext_iff, Config.legal_iff]
  · have hlow := c.lowCode_pos
    have hhigh := c.lowCode_lt_highCode
    exact ⟨hhigh.ne, hlow.ne', (hlow.trans hhigh).ne', bufferLength_eq_48_or_64 c, c.bufferLength_eq⟩

end Sys2Proof.Machine
end


section
/-! PROOF. The state of the machine (10_state.md): what an instruction writes of it, field by field, and the
invariant that every step keeps. -/

namespace Sys2Proof.Machine

/-! ### The state a machine is created in -/

theorem State.created_tb_length (c : Setup) : (State.created c).tb.length = c.bufferLength :=
  (List.length_map _).trans List.length_range

theorem State.created_code_lt (c : Setup) : ∀ code ∈ (State.created c).tb, code < 2 ^ c.codeWidth := by
  intro code hcode
  obtain ⟨k, -, rfl⟩ := List.mem_map.mp hcode
  exact Nat.mod_lt _ (Nat.two_pow_pos _)

/-- A created machine is idle: it has no transfer that the parts of the invariant could speak of. -/
theorem State.created_inv (c : Setup) : (State.created c).Inv := by
  have hpos : 0 < c.bufferLength := by
    rw [c.bufferLength_eq]
    exact Nat.mul_pos Nat.two_pos c.half_pos
  exact ⟨⟨Memory.wf_nil, nofun⟩, ⟨State.created_tb_length c, State.created_code_lt c⟩,
    ⟨fun _ => rfl, nofun⟩, ⟨nofun, hpos, nofun, nofun⟩, fun _ => rfl, nofun, nofun⟩

/-- Settles O47: every value but the length of `TB` is the one written in `State.created`. -/
theorem creationLeavesTheResetState : Obligations.CreationLeavesTheResetState :=
  ⟨fun c => ⟨rfl, rfl, rfl, rfl, rfl, rfl, rfl, State.created_tb_length c⟩, State.resetSetup, rfl⟩

/-- Settles O51: `State.reset` is a created machine. -/
theorem machineInvariantHoldsAtReset : Obligations.MachineInvariantHoldsAtReset :=
  ⟨State.created_inv, State.created_inv _⟩

/-! ### What an instruction writes, field by field -/

/-- The cursor after an instruction (10_state.md R31). -/
def State.cursorAfter (s : State) : Instr → Nat
  | .trigger => if s.es = .ready ∧ s.teIdle = true then 2 else s.pc
  | .evHalf => if s.pc < s.cfg.pixelCount + 2 then s.pc + 1 else s.pc
  | .evFull => if s.pc < s.cfg.pixelCount + 2 then s.pc + 1 else 0
  | _ => s.pc

theorem State.cursorAfter_of_writesColourBuffer (s : State) {i : Instr}
    (h : i.writesColourBuffer = true) : s.cursorAfter i = s.pc := by
  cases i with
  | trigger | evHalf | evFull => cases h
  | _ => rfl

/-- Where `ES` is left as it was, no transition from one engine state to another has been made. -/
theorem moves_iff_of_es_eq {e e' a b : EngineState} {p : Prop} (hab : a ≠ b) (hes : e' = e) (hp : ¬ p) :
    (e = a ∧ e' = b) ↔ p :=
  iff_of_false (fun ⟨ha, hb⟩ => hab (ha.symm.trans (hes.symm.trans hb))) hp

section Fields

variable {s t : State} {i : Instr}

/-- `init` runs while `READY`, where the control invariant has the cursor at 0 already. -/
theorem ExecNext.pc (h : ExecNext s i t) (hs : s.ControlOk) : t.pc = s.cursorAfter i := by
  cases h with
  | init ready => exact (hs.1 ready).symm
  | colour writes u r stores _ =>
    rw [s.cursorAfter_of_writesColourBuffer writes, stores.1]
    rfl
  | showBusy busy =>
    have hno : ¬ (s.es = .ready ∧ s.teIdle = true) := by rcases busy with h | h <;> simp [h]
    exact (if_neg hno).symm
  | showAccepted ready idle => exact (if_pos ⟨ready, idle⟩).symm
  | halfRefill _ more | fullRefill _ more => exact (State.refill_pc ..).trans (if_pos more).symm
  | halfNothing _ done | fullTerminate _ done => exact (if_neg (Nat.not_lt.mpr done)).symm
  | setBrightness | isReady => rfl

/-- `ES` leaves `READY` only by an accepted `show` (10_state.md R33). -/
theorem ExecNext.becomesBusy_iff (h : ExecNext s i t) :
    (s.es = .ready ∧ t.es = .busy) ↔ (i = .trigger ∧ s.es = .ready ∧ s.teIdle = true) := by
  cases h with
  | showAccepted ready idle => exact iff_of_true ⟨ready, rfl⟩ ⟨rfl, ready, idle⟩
  | showBusy busy =>
    refine moves_iff_of_es_eq nofun rfl ?_
    rintro ⟨-, ready, idle⟩
    rcases busy with h | h <;> simp_all
  | colour writes u r stores _ =>
    refine moves_iff_of_es_eq nofun (by rw [stores.1]; rfl) ?_
    rintro ⟨rfl, -⟩
    cases writes
  | halfRefill | fullRefill => exact moves_iff_of_es_eq nofun (State.refill_es ..) (fun h => nomatch h.1)
  | init | fullTerminate => exact iff_of_false (fun h => nomatch h.2) (fun h => nomatch h.1)
  | setBrightness | isReady | halfNothing => exact moves_iff_of_es_eq nofun rfl (fun h => nomatch h.1)

/-- `ES` leaves `BUSY` only by the callback that finds both tail halves staged (10_state.md R33). -/
theorem ExecNext.becomesReady_iff (h : ExecNext s i t) :
    (s.es = .busy ∧ t.es = .ready) ↔ (i = .evFull ∧ s.cfg.pixelCount + 2 ≤ s.pc) := by
  cases h with
  | fullTerminate transfer done =>
    exact iff_of_true ⟨((State.inTransfer_iff s).mp transfer).1, rfl⟩ ⟨rfl, done⟩
  | fullRefill _ more =>
    exact moves_iff_of_es_eq nofun (State.refill_es ..) (fun h => absurd h.2 (Nat.not_le.mpr more))
  | colour writes u r stores _ =>
    refine moves_iff_of_es_eq nofun (by rw [stores.1]; rfl) ?_
    rintro ⟨rfl, -⟩
    cases writes
  | init ready => exact iff_of_false (fun h => absurd (ready.symm.trans h.1) nofun) (fun h => nomatch h.1)
  | showAccepted => exact iff_of_false (fun h => nomatch h.2) (fun h => nomatch h.1)
  | halfRefill => exact moves_iff_of_es_eq nofun (State.refill_es ..) (fun h => nomatch h.1)
  | setBrightness | showBusy | isReady | halfNothing =>
    exact moves_iff_of_es_eq nofun rfl (fun h => nomatch h.1)

/-- The writers of `TB` (10_state.md R26). -/
theorem ExecNext.tb (h : ExecNext s i t) :
    t.tb = s.tb ∨ i = .trigger ∨ i = .evHalf ∨ i = .evFull := by
  cases h with
  | colour _ u r stores _ => exact .inl (by rw [stores.1]; rfl)
  | showAccepted => exact .inr (.inl rfl)
  | halfRefill => exact .inr (.inr (.inl rfl))
  | fullRefill => exact .inr (.inr (.inr rfl))
  | _ => exact .inl rfl

/-- The half that the refill of the other half leaves alone (42_streaming_engine.md R163). -/
theorem State.codesOf_refill_other (s : State) (h : Half) (htb : s.tb.length = s.cfg.bufferLength) :
    codesOf s.cfg.toConfig (s.refill h).tb h.other = codesOf s.cfg.toConfig s.tb h.other := by
  rw [State.refill_eq]
  exact codesOf_replaceHalf_other h htb s.staged_length

/-- Half 1 begins after the `HALF` new codes of half 0, whatever the length of `TB`. -/
theorem State.drop_refill_first (s : State) : (s.refill .first).tb.drop s.cfg.half = s.tb.drop s.cfg.half := by
  rw [State.refill_eq]
  exact List.drop_left' s.staged_length

/-- The half-consumed callback writes half 0 only (10_state.md R26). -/
theorem ExecNext.drop_tb_of_evHalf (h : ExecNext s .evHalf t) :
    t.tb.drop s.cfg.half = s.tb.drop s.cfg.half := by
  cases h with
  | colour writes => cases writes
  | halfRefill => exact s.drop_refill_first
  | halfNothing => rfl

/-- The full-consumed callback writes half 1 only (10_state.md R26). -/
theorem ExecNext.take_tb_of_evFull (h : ExecNext s .evFull t) (htb : s.tb.length = s.cfg.bufferLength) :
    t.tb.take s.cfg.half = s.tb.take s.cfg.half := by
  cases h with
  | colour writes => cases writes
  | fullRefill => exact s.codesOf_refill_other .second htb
  | fullTerminate => rfl

/-- The writers of `CB` (10_state.md R23). -/
theorem ExecNext.cb (h : ExecNext s i t) : t.cb = s.cb ∨ i.writesColourBuffer = true := by
  cases h with
  | colour writes => exact .inr writes
  | halfRefill | fullRefill => exact .inl (State.refill_cb ..)
  | _ => exact .inl rfl

/-- The writer of `BR` (10_state.md R36). -/
theorem ExecNext.br (h : ExecNext s i t) : t.br = s.br ∨ ∃ b, i = .setBrightness b := by
  cases h with
  | setBrightness b => exact .inr ⟨b, rfl⟩
  | colour _ u r stores _ => exact .inl stores.br
  | halfRefill | fullRefill => exact .inl (State.refill_br ..)
  | _ => exact .inl rfl

/-- The writer of `WIRE` among the instructions (10_state.md R41, log entry 11). -/
theorem ExecNext.wire (h : ExecNext s i t) : t.wire = if i = .init then [] else s.wire := by
  cases h with
  | colour writes u r stores _ =>
    have hi : i ≠ .init := by rintro rfl; cases writes
    rw [if_neg hi, stores.1]
    rfl
  | halfRefill | fullRefill => exact State.refill_wire ..
  | _ => rfl

/-- Of the instructions only `show` moves the Transfer Engine, by `te_start` (43_serializer.md R181). -/
theorem ExecNext.tePos (h : ExecNext s i t) : t.tePos = s.tePos ∨ (i = .trigger ∧ t.es = .busy) := by
  cases h with
  | colour _ u r stores _ => exact .inl (by rw [stores.1]; rfl)
  | showAccepted => exact .inr ⟨rfl, rfl⟩
  | halfRefill | fullRefill => exact .inl (State.refill_tePos ..)
  | _ => exact .inl rfl

/-- No instruction raises an event: an emission does (43_serializer.md R185). -/
theorem ExecNext.event (h : ExecNext s i t) : t.event = s.event := by
  cases h with
  | colour _ u r stores _ => rw [stores.1]; rfl
  | halfRefill | fullRefill => exact State.refill_event ..
  | _ => rfl

end Fields

/-- A step that fetches nothing is an emission, with the oldest input used up (43_serializer.md R185). -/
theorem pulseStep_of_fetched_none {s t : State} (hf : s.fetched = none) (h : step s = .next t) :
    s.pulseStep = .next t := by
  simpa only [step, hf] using h

/-- Settles O37: `exec` by its cases, and an emission moves no cursor. -/
theorem cursorIsWrittenOnlyAsListed : Obligations.CursorIsWrittenOnlyAsListed := by
  constructor
  · intro i s t hs h
    have hpc := (exec_next h).pc hs
    cases i <;> exact hpc
  · intro s t hf h
    obtain ⟨-, -, hpc⟩ := emit_control (pulseStep_of_fetched_none hf h)
    exact hpc

/-- Settles O38: `exec` by its cases, and an emission moves no `ES`. -/
theorem engineStateHasNoOtherTransitions : Obligations.EngineStateHasNoOtherTransitions := by
  refine ⟨fun _ => rfl, fun i s t h => ?_, fun s t hf h => ?_⟩
  · exact ⟨(exec_next h).becomesBusy_iff, (exec_next h).becomesReady_iff⟩
  · obtain ⟨-, hes, -⟩ := emit_control (pulseStep_of_fetched_none hf h)
    exact hes

/-- Settles O39, one buffer at a time. -/
theorem buffersHaveOnlyTheirWriters : Obligations.BuffersHaveOnlyTheirWriters := by
  intro i s t h
  have hx := exec_next h
  refine ⟨hx.tb, ?_, ?_, hx.cb, hx.br, hx.wire⟩
  · rintro rfl
    exact hx.drop_tb_of_evHalf
  · rintro rfl
    exact hx.take_tb_of_evFull

/-- Settles O45: a running Transfer Engine emits a code of `TB`, which during a transfer is a legal one. -/
theorem wireGrowsByLegalCodes : Obligations.WireGrowsByLegalCodes := by
  rintro s t ⟨hrun, -⟩ hcodes h
  rcases step_next h with ⟨-, h⟩ | ⟨-, h⟩ | ⟨w, rest, i, he, hi, hd, h⟩ | ⟨-, -, h⟩
  · exact .inl (exec_next h).wire
  · exact .inl (exec_next h).wire
  · have hwire := (exec_next h).wire
    split_ifs at hwire with hinit
    · exact .inr (.inr ⟨hwire, he, w, rest, hi, hinit ▸ hd⟩)
    · exact .inl hwire
  · rcases emit_next h with ⟨-, rfl⟩ | ⟨hr, code, hcode, rfl⟩
    · exact .inl rfl
    · have hlegal := hcodes (hrun hr) code (List.mem_of_getElem? hcode)
      exact .inr (.inl ⟨code, hlegal, State.advance_wire _⟩)

/-! ### The parts of the invariant that each stand on their own -/

/-- A property that taking an input leaves alone, and that every instruction and every emission keeps with no
event raised, is kept by every step: whatever a step runs, the event has been taken from its port before. -/
theorem step_keeps {P : State → Prop}
    (fetch : ∀ {s : State} (rest : List Input), P s → P { s with event := none, inputs := rest })
    (instr : ∀ {i : Instr} {s t : State}, s.event = none → ExecNext s i t → P s → P t)
    (emission : ∀ {s t : State}, s.event = none → s.emit = .next t → P s → P t)
    {s t : State} (hs : P s) (h : step s = .next t) : P t := by
  have hinputs : s.event = none → ∀ rest : List Input, P { s with inputs := rest } := by
    intro he rest
    have hp := fetch rest hs
    rwa [← he] at hp
  rcases step_next h with ⟨-, h⟩ | ⟨-, h⟩ | ⟨w, rest, i, he, -, -, h⟩ | ⟨he, -, h⟩
  · exact instr rfl (exec_next h) (fetch s.inputs hs)
  · exact instr rfl (exec_next h) (fetch s.inputs hs)
  · exact instr (s := { s with inputs := rest }) he (exec_next h) (hinputs he rest)
  · exact emission (s := { s with inputs := s.inputs.tail }) he h (hinputs he s.inputs.tail)

/-- A property that speaks neither of `WIRE`, nor of the Transfer Engine's position, nor of the event port is
kept by every emission. -/
theorem emit_keeps {P : State → Prop}
    (other : ∀ {s : State} (wire : List Nat) (pos : Nat) (e : Option EventWord), P s →
      P { s with wire := wire, tePos := pos, event := e })
    {s t : State} (h : s.emit = .next t) (hs : P s) : P t := by
  rcases emit_next h with ⟨-, rfl⟩ | ⟨-, code, -, rfl⟩
  · exact hs
  · rcases State.advance_cases ({ s with wire := s.wire ++ [code] } : State) with
      ⟨-, hadv⟩ | ⟨-, -, hadv⟩ | ⟨-, -, hadv⟩ <;> rw [hadv] <;> exact other (s := s) _ _ _ hs

section Parts

variable {s t : State} {i : Instr}

theorem ExecNext.memoryOk (h : ExecNext s i t) (hs : s.MemoryOk) : t.MemoryOk := by
  cases h with
  | colour _ u r _ form => exact form hs
  | halfRefill | fullRefill => rw [State.refill_eq]; exact hs
  | _ => exact hs

theorem step_memoryOk (hs : s.MemoryOk) (h : step s = .next t) : t.MemoryOk :=
  step_keeps (P := State.MemoryOk) (fun _ => id) (fun _ => ExecNext.memoryOk)
    (fun _ => emit_keeps fun _ _ _ => id) hs h

/-- The codes an accepted `show` stages are codes the block may write (10_state.md R27). -/
theorem State.startTransfer_isCode {code : Nat} (h : code ∈ s.startTransfer.tb) :
    s.cfg.toConfig.isCode code := by
  rw [State.startTransfer_eq] at h
  exact .inr ((List.mem_append.mp h).elim encodeRecord_isCode encodeRecord_isCode)

theorem State.startTransfer_tb_length (s : State) : s.startTransfer.tb.length = s.cfg.bufferLength := by
  rw [State.startTransfer_eq, s.cfg.bufferLength_eq]
  simp only [List.length_append, State.encodedPixel_length]
  omega

/-- A refill writes codes the block may write; the others stand in `TB` already. -/
theorem State.mem_refill_tb {h : Half} {code : Nat} (hc : code ∈ (s.refill h).tb) :
    code ∈ s.tb ∨ s.cfg.toConfig.isCode code := by
  rw [State.refill_eq] at hc
  exact (mem_replaceHalf hc).imp_right State.staged_isCode

theorem State.BufferOk.refill (hs : s.BufferOk) (h : Half) : (s.refill h).BufferOk := by
  obtain ⟨hlength, hwidth⟩ := hs
  unfold State.BufferOk
  rw [State.refill_cfg]
  constructor
  · rw [State.refill_eq]
    exact length_replaceHalf h hlength s.staged_length
  · intro code hc
    exact (State.mem_refill_tb hc).elim (hwidth code) (isCode_lt s.cfg)

theorem ExecNext.bufferOk (h : ExecNext s i t) (hs : s.BufferOk) : t.BufferOk := by
  cases h with
  | colour _ u r stores _ => rw [stores.1]; exact hs
  | showAccepted =>
    exact ⟨s.startTransfer_tb_length, fun _ hc => isCode_lt s.cfg (State.startTransfer_isCode hc)⟩
  | halfRefill | fullRefill => exact State.BufferOk.refill hs _
  | _ => exact hs

theorem step_bufferOk (hs : s.BufferOk) (h : step s = .next t) : t.BufferOk :=
  step_keeps (P := State.BufferOk) (fun _ => id) (fun _ => ExecNext.bufferOk)
    (fun _ => emit_keeps fun _ _ _ => id) hs h

/-- The control invariant follows from what a step can do to `(ES, PC)` (42_streaming_engine.md R170). -/
theorem step_controlOk (hs : s.ControlOk) (h : step s = .next t) : t.ControlOk := by
  obtain ⟨hcfg, hmove⟩ := step_control h
  unfold State.ControlOk
  rw [hcfg]
  cases hmove with
  | stay hes hpc => rw [hes, hpc]; exact hs
  | reset _ hes hpc | finish _ _ hes hpc => rw [hes, hpc]; exact ⟨fun _ => rfl, nofun⟩
  | start _ hes hpc => rw [hes, hpc]; exact ⟨nofun, fun _ => ⟨le_rfl, by omega⟩⟩
  | refill busy more hes hpc =>
    rw [hes, hpc]
    exact ⟨nofun, fun _ => ⟨(hs.2 busy).1.trans (Nat.le_succ _), more⟩⟩

/-- While `READY` the Transfer Engine does not run, so the reset of `ES` stops nothing, and an accepted `show`
finds it stopped. -/
theorem ExecNext.serializerOk (h : ExecNext s i t) (he : s.event = none) (hs : s.SerializerOk) :
    t.SerializerOk := by
  obtain ⟨hrun, hpos, hevents⟩ := hs
  cases h with
  | init ready => exact ⟨fun hr => absurd (ready.symm.trans (hrun hr)) nofun, hpos, hevents⟩
  | colour _ u r stores _ => rw [stores.1]; exact ⟨hrun, hpos, hevents⟩
  | showAccepted =>
    refine ⟨fun _ => rfl, ?_, by simp [he], by simp [he]⟩
    rw [State.startTransfer_tePos]
    split_ifs
    · exact Nat.zero_lt_of_lt hpos
    · exact hpos
  | halfRefill | fullRefill => rw [State.refill_eq]; exact ⟨hrun, hpos, hevents⟩
  | fullTerminate => exact ⟨nofun, hpos, by simp [he], by simp [he]⟩
  | _ => exact ⟨hrun, hpos, hevents⟩

/-- An emission raises each event at its own position, and the position wraps at the end of `TB`
(43_serializer.md R185). -/
theorem emit_serializerOk (h : s.emit = .next t) (he : s.event = none) (hs : s.SerializerOk) :
    t.SerializerOk := by
  rcases emit_next h with ⟨-, rfl⟩ | ⟨hr, code, -, rfl⟩
  · exact hs
  · obtain ⟨hrun, hpos, -⟩ := hs
    have hhalf := s.cfg.half_pos
    have hlength := s.cfg.bufferLength_eq
    rcases State.advance_cases ({ s with wire := s.wire ++ [code] } : State) with
      ⟨-, hadv⟩ | ⟨-, -, hadv⟩ | ⟨-, hne, hadv⟩ <;> rw [hadv]
    · exact ⟨hrun, by simp only; omega, fun _ => ⟨hr, rfl⟩, by simp⟩
    · exact ⟨hrun, by simp only; omega, by simp, fun _ => ⟨hr, rfl⟩⟩
    · exact ⟨hrun, by simp only at hne ⊢; omega, by simp [he], by simp [he]⟩

theorem step_serializerOk (hs : s.SerializerOk) (h : step s = .next t) : t.SerializerOk :=
  step_keeps (P := State.SerializerOk) (fun _ ⟨hrun, hpos, _⟩ => ⟨hrun, hpos, nofun, nofun⟩)
    (fun he hx => hx.serializerOk he) (fun he hx => emit_serializerOk hx he) hs h

theorem ExecNext.raceOk (h : ExecNext s i t) (hs : s.RaceOk) : t.RaceOk := by
  cases h with
  | colour _ u r stores _ =>
    intro ready
    have hes : u.es = s.es := by rw [stores.1]
    have hready : s.es = .ready := hes.symm.trans ready
    exact (stores.2 hready).trans (hs hready)
  | init ready => exact fun _ => hs ready
  | showAccepted | fullTerminate => exact fun _ => rfl
  | halfRefill | fullRefill => rw [State.refill_eq]; exact hs
  | _ => exact hs

theorem step_raceOk (hs : s.RaceOk) (h : step s = .next t) : t.RaceOk :=
  step_keeps (P := State.RaceOk) (fun _ => id) (fun _ => ExecNext.raceOk)
    (fun _ => emit_keeps fun _ _ _ => id) hs h

theorem State.CodesOk.refill (hs : s.CodesOk) (h : Half) : (s.refill h).CodesOk := by
  intro busy code hc
  rw [State.refill_es] at busy
  rw [State.refill_cfg]
  exact (State.mem_refill_tb hc).elim (hs busy code) id

theorem ExecNext.codesOk (h : ExecNext s i t) (hs : s.CodesOk) : t.CodesOk := by
  cases h with
  | init | fullTerminate => exact nofun
  | colour _ u r stores _ => rw [stores.1]; exact hs
  | showAccepted => exact fun _ _ => State.startTransfer_isCode
  | halfRefill | fullRefill => exact State.CodesOk.refill hs _
  | _ => exact hs

theorem step_codesOk (hs : s.CodesOk) (h : step s = .next t) : t.CodesOk :=
  step_keeps (P := State.CodesOk) (fun _ => id) (fun _ => ExecNext.codesOk)
    (fun _ => emit_keeps fun _ _ _ => id) hs h

end Parts

/-- Settles O48: a store is made at an address of `CB` and keeps the list in order. -/
theorem colourBufferStaysCanonical : Obligations.ColourBufferStaysCanonical :=
  fun _ _ hs h => step_memoryOk hs h

/-! ### The cursor and the Transfer Engine keep step -/

/-- The body of `State.StreamOk` with the next half to be consumed named, so that it can be followed through a
callback, where the event that tells it is taken first. -/
def State.StreamAt (s : State) (next : Half) : Prop :=
  (s.pc ≤ s.cfg.pixelCount + 1 → next = halfOfPixel s.pc) ∧
  (s.pc = s.cfg.pixelCount + 1 →
    s.halfCodes (halfOfPixel s.cfg.pixelCount) = List.replicate s.cfg.half 0) ∧
  (s.pc = s.cfg.pixelCount + 2 →
    s.tb = List.replicate s.cfg.bufferLength 0 ∧ (s.cfg.pixelCount % 2 = 1 → next = .second))

theorem State.streamOk_iff (s : State) :
    s.StreamOk ↔ (s.teRunning = true → s.StreamAt s.nextHalf) := Iff.rfl

theorem halfOfPixel_of_odd {p : Nat} (h : p % 2 = 1) : halfOfPixel p = .second :=
  if_neg (by omega)

@[simp] theorem Half.other_other (h : Half) : h.other.other = h := by cases h <;> rfl

section Stream

variable {s t : State}

/-- What a refill stages from the cursor `N` on is zero (42_streaming_engine.md R165). -/
theorem State.staged_of_tail (h : s.cfg.pixelCount ≤ s.pc) : s.staged = List.replicate s.cfg.half 0 :=
  if_neg (Nat.not_lt.mpr h)

theorem State.codesOf_refill_same (s : State) (h : Half) (htb : s.tb.length = s.cfg.bufferLength) :
    codesOf s.cfg.toConfig (s.refill h).tb h = s.staged := by
  rw [State.refill_eq]
  exact codesOf_replaceHalf_same h htb s.staged_length

/-- A refill of the half at hand passes the turn to the other half: the unit at the cursor goes into half
`PC mod 2`, and the units `N` and `N + 1`, both zero, fill the two halves (42_streaming_engine.md R163 to
R165, R171). -/
theorem State.StreamAt.refill {h : Half} (hs : s.StreamAt h) (htb : s.tb.length = s.cfg.bufferLength)
    (more : s.pc < s.cfg.pixelCount + 2) : (s.refill h).StreamAt h.other := by
  obtain ⟨hturn, hzero, -⟩ := hs
  have hhalf : h = halfOfPixel s.pc := hturn (by omega)
  have hnext : h.other = halfOfPixel (s.pc + 1) := by rw [halfOfPixel_succ, ← hhalf]
  have hsame := s.codesOf_refill_same h htb
  unfold State.StreamAt
  simp only [State.refill_pc, State.refill_cfg, State.halfCodes_eq]
  refine ⟨fun _ => hnext, fun hpc => ?_, fun hpc => ⟨?_, fun hodd => ?_⟩⟩
  · have hN : s.pc = s.cfg.pixelCount := by omega
    rw [← hN, ← hhalf, hsame, State.staged_of_tail hN.ge]
  · have hN : s.pc = s.cfg.pixelCount + 1 := by omega
    have hfirst := hzero hN
    have hother : halfOfPixel s.cfg.pixelCount = h.other := by
      rw [hhalf, hN, halfOfPixel_succ, Half.other_other]
    rw [State.halfCodes_eq, hother, ← s.codesOf_refill_other h htb] at hfirst
    exact eq_replicate_of_zero_halves h (hsame.trans (State.staged_of_tail (by omega))) hfirst
  · rw [hnext]
    exact halfOfPixel_of_odd (by omega)

/-- At the cursor `N + 2` the half-consumed event leaves everything, and it comes for an even `N` only
(42_streaming_engine.md R155, R166). -/
theorem State.StreamAt.halfNothing (hs : s.StreamAt .first) (done : s.cfg.pixelCount + 2 ≤ s.pc) :
    s.StreamAt .second := by
  obtain ⟨-, -, hend⟩ := hs
  exact ⟨fun hpc => by omega, fun hpc => by omega, fun hpc => ⟨(hend hpc).1, fun _ => rfl⟩⟩

/-- An accepted `show` that starts the Transfer Engine starts it in half 0, where pixel 2 is to go
(42_streaming_engine.md R152). -/
theorem State.startTransfer_streamOk (idle : s.teIdle = true) (he : s.event = none) :
    s.startTransfer.StreamOk := by
  intro hr
  have hN := s.cfg.two_le_pixelCount
  have hstart : s.seed.startAnswer = true := by
    by_contra hno
    simp [hno, (State.teIdle_iff s).mp idle] at hr
  have hnext : s.startTransfer.nextHalf = .first := by
    rw [State.nextHalf_none (s := s.startTransfer) he, State.startTransfer_tePos, if_pos hstart]
    exact if_pos s.cfg.half_pos
  simp only [State.startTransfer_pc, State.startTransfer_cfg]
  exact ⟨fun _ => hnext, fun hpc => by omega, fun hpc => by omega⟩

/-- The half-consumed callback: half 0 has been consumed, half 1 is next. -/
theorem ExecNext.streamAt_evHalf (h : ExecNext s .evHalf t) (htb : s.tb.length = s.cfg.bufferLength)
    (hs : s.StreamAt .first) : t.StreamAt .second := by
  cases h with
  | colour writes => cases writes
  | halfRefill _ more => exact hs.refill htb more
  | halfNothing _ done => exact hs.halfNothing done

/-- The full-consumed callback: half 1 has been consumed, half 0 is next, unless the transfer ends. -/
theorem ExecNext.streamAt_evFull (h : ExecNext s .evFull t) (htb : s.tb.length = s.cfg.bufferLength)
    (hs : s.StreamAt .second) (hr : t.teRunning = true) : t.StreamAt .first := by
  cases h with
  | colour writes => cases writes
  | fullRefill _ more => exact hs.refill htb more
  | fullTerminate => cases hr

/-- No command but `show` touches what `StreamOk` speaks of; `init` runs while the Transfer Engine is
stopped. -/
theorem ExecNext.streamOk_command {i : Instr} (h : ExecNext s i t) (hi : i ≠ .evHalf ∧ i ≠ .evFull)
    (he : s.event = none) (hrun : s.teRunning = true → s.es = .busy) (hs : s.StreamOk) : t.StreamOk := by
  cases h with
  | init ready => exact fun hr => absurd (ready.symm.trans (hrun hr)) nofun
  | colour _ u r stores _ => rw [stores.1]; exact hs
  | showAccepted _ idle => exact State.startTransfer_streamOk idle he
  | halfRefill | halfNothing => exact absurd rfl hi.1
  | fullRefill | fullTerminate => exact absurd rfl hi.2
  | setBrightness | showBusy | isReady => exact hs

/-- A callback leaves the half to be consumed next, as the position tells it. -/
theorem ExecNext.nextHalf {i : Instr} (h : ExecNext s i t) (hi : i ≠ .trigger) (he : s.event = none) :
    t.nextHalf = s.nextHalf := by
  have hpos : t.tePos = s.tePos := h.tePos.resolve_right fun hp => hi hp.1
  rw [State.nextHalf_none he, State.nextHalf_none (h.event.trans he), h.cfg, hpos]

/-- An emission does not change which half is consumed next: the event is raised when its half has been
emitted (43_serializer.md R185, 42_streaming_engine.md R163). -/
theorem State.nextHalf_advance (he : s.event = none) : s.advance.nextHalf = s.nextHalf := by
  have hhalf := s.cfg.half_pos
  have hlength := s.cfg.bufferLength_eq
  rw [State.nextHalf_none he]
  rcases s.advance_cases with ⟨hpos', hadv⟩ | ⟨hne, hpos', hadv⟩ | ⟨hne, hne', hadv⟩ <;> rw [hadv]
  · rw [State.nextHalf_half rfl, if_pos (by omega)]
  · rw [State.nextHalf_full rfl, if_neg (by omega)]
  · rw [State.nextHalf_none (s := { s with tePos := s.tePos + 1 }) he]
    exact if_congr (by simp only; omega) rfl rfl

theorem State.StreamOk.advance (hs : s.StreamOk) (he : s.event = none) : s.advance.StreamOk := by
  intro hr
  have hturn := hs ((State.advance_teRunning s).symm.trans hr)
  simp only [State.nextHalf_advance he, State.advance_pc, State.advance_cfg, State.advance_tb,
    State.halfCodes_eq] at hturn ⊢
  exact hturn

theorem emit_streamOk (h : s.emit = .next t) (he : s.event = none) (hs : s.StreamOk) : t.StreamOk := by
  rcases emit_next h with ⟨-, rfl⟩ | ⟨hr, code, -, rfl⟩
  · exact hs
  · exact State.StreamOk.advance (s := { s with wire := s.wire ++ [code] }) hs he

theorem step_streamOk (hbuffer : s.BufferOk) (hserializer : s.SerializerOk) (hs : s.StreamOk)
    (h : step s = .next t) : t.StreamOk := by
  obtain ⟨hlength, -⟩ := hbuffer
  obtain ⟨hrun, -, hhalf, hfull⟩ := hserializer
  rcases step_next h with ⟨he, h⟩ | ⟨he, h⟩ | ⟨w, rest, i, he, -, hd, h⟩ | ⟨he, -, h⟩
  · obtain ⟨hr, hat⟩ := hhalf he
    have hx := exec_next h
    have hturn : s.takeEvent.StreamAt .first := State.nextHalf_half he ▸ hs hr
    have hnext : t.nextHalf = .second := by
      rw [hx.nextHalf nofun rfl, State.nextHalf_none rfl]
      exact if_neg hat.not_lt
    rw [State.streamOk_iff, hnext]
    exact fun _ => hx.streamAt_evHalf hlength hturn
  · obtain ⟨hr, hat⟩ := hfull he
    have hx := exec_next h
    have hturn : s.takeEvent.StreamAt .second := State.nextHalf_full he ▸ hs hr
    have hnext : t.nextHalf = .first := by
      rw [hx.nextHalf nofun rfl, State.nextHalf_none rfl]
      exact if_pos (hat.trans_lt s.cfg.half_pos)
    rw [State.streamOk_iff, hnext]
    exact hx.streamAt_evFull hlength hturn
  · exact (exec_next h).streamOk_command (decodeCommand_ne_event hd) he hrun hs
  · exact emit_streamOk h he hs

end Stream

/-- Settles O50, part by part. -/
theorem machineInvariantIsKept : Obligations.MachineInvariantIsKept := by
  rintro s t ⟨hmemory, hbuffer, hcontrol, hserializer, hrace, hcodes, hstream⟩ h
  exact ⟨step_memoryOk hmemory h, step_bufferOk hbuffer h, step_controlOk hcontrol h,
    step_serializerOk hserializer h, step_raceOk hrace h, step_codesOk hcodes h,
    step_streamOk hbuffer hserializer hstream h⟩

/-! ### The Transfer Engine at rest -/

/-- An instruction that leaves the engine `READY` leaves the position, and came from `READY` unless it ended a
transfer. -/
theorem ExecNext.tePos_of_ready {s t : State} {i : Instr} (h : ExecNext s i t) (ready : t.es = .ready) :
    t.tePos = s.tePos ∧ (s.es = .ready ∨ i = .evFull) := by
  constructor
  · exact h.tePos.resolve_right fun hp => absurd (ready.symm.trans hp.2) nofun
  · by_cases hbusy : s.es = .busy
    · exact .inr (h.becomesReady_iff.mp ⟨hbusy, ready⟩).1
    · exact .inl (EngineState.ready_of_ne_busy hbusy)

/-- Settles O58: the event that ends a transfer was raised when the position wrapped to 0. -/
theorem transferEngineRestsAtPositionZero : Obligations.TransferEngineRestsAtPositionZero := by
  refine ⟨fun _ _ => rfl, ?_⟩
  rintro s t ⟨-, -, -, ⟨hrun, -, -, hfull⟩, -⟩ hidle h ready
  rcases step_next h with ⟨-, h⟩ | ⟨he, h⟩ | ⟨w, rest, i, -, -, hd, h⟩ | ⟨-, -, h⟩
  · obtain ⟨hpos, hes⟩ := (exec_next h).tePos_of_ready ready
    exact hpos.trans (hidle (hes.resolve_right nofun))
  · obtain ⟨hpos, -⟩ := (exec_next h).tePos_of_ready ready
    exact hpos.trans (hfull he).2
  · obtain ⟨hpos, hes⟩ := (exec_next h).tePos_of_ready ready
    exact hpos.trans (hidle (hes.resolve_right (decodeCommand_ne_event hd).2))
  · obtain ⟨-, hes, -⟩ := emit_control h
    have hready : s.es = .ready := hes.symm.trans ready
    rcases emit_next h with ⟨-, rfl⟩ | ⟨hr, -⟩
    · exact hidle hready
    · exact absurd (hready.symm.trans (hrun hr)) nofun

end Sys2Proof.Machine
end

section
/-! PROOF. The memory of the block (20_memory.md): the pixel an index names, what a fetch gives of a byte written
during a transfer, and what the Streaming Engine reads of `CB` and writes of `TB`. -/

namespace Sys2Proof.Machine

/-! ### Indices -/

/-- Settles O16: the three operations use the index through the pixel it names, and none of them refuses. -/
theorem indexWrapsModuloPixelCount : Obligations.IndexWrapsModuloPixelCount := by
  intro s i j hij
  have hpixel : pixelOf s.cfg.toConfig i = pixelOf s.cfg.toConfig j := hij
  refine ⟨fun r g b => ⟨?_, _, rfl⟩, fun h v x => ⟨?_, _, rfl⟩, fun w => ⟨?_, _, rfl⟩⟩
  · simp only [exec, execSetPixelRgb, hpixel]
  · simp only [exec, execSetPixelHsv, hpixel]
  · simp only [exec, execSetPixelWhite, hpixel]

/-! ### What a fetch gives of a raced byte -/

/-- A fetch gives the byte as it stands or a value it held during the transfer: the free choice is an index of the
list of these (20_memory.md R63). -/
theorem State.fetchByte_mem (s : State) (k : Nat) : s.fetchByte k ∈ s.cbByte k :: s.oldValues k := by
  unfold State.fetchByte
  split
  next => exact List.mem_cons_self
  next old olds hold =>
    have hlt : Config.raceChoice s.draws k % (olds.length + 2) < (s.cbByte k :: old :: olds).length :=
      Nat.mod_lt _ (Nat.succ_pos _)
    rw [hold, List.getD_eq_getElem _ _ hlt]
    exact List.getElem_mem hlt

/-- A store remembers the value it replaces, and nothing else (20_memory.md R63). -/
theorem State.mem_oldValues_storeByte {s : State} {k j : Nat} {u v : Byte}
    (h : v ∈ (s.storeByte k u).oldValues j) : (j = k ∧ v = s.cbByte j) ∨ v ∈ s.oldValues j := by
  unfold State.oldValues at h ⊢
  rw [State.raced_storeByte] at h
  split_ifs at h
  · by_cases hkj : k = j
    · subst hkj
      simpa using h
    · exact .inr (by simpa [hkj] using h)
  · exact .inr h

/-- The three stores of a colour are at different addresses, so a byte raced by them alone has one old value, the
one it held before. -/
theorem State.eq_of_mem_oldValues_storeColour {s : State} {i k : Nat} {r g b v : Byte} (hs : s.raced = [])
    (h : v ∈ (s.storeColour i r g b).oldValues k) : v = s.cbByte k := by
  have h01 := recordAddress_ne s.cfg.toConfig i (j := 1) (j' := 0) (by decide)
  have h02 := recordAddress_ne s.cfg.toConfig i (j := 2) (j' := 0) (by decide)
  have h12 := recordAddress_ne s.cfg.toConfig i (j := 2) (j' := 1) (by decide)
  rcases mem_oldValues_storeByte h with ⟨rfl, hv⟩ | h
  · rw [hv, State.cbByte_storeByte, if_neg h12, State.cbByte_storeByte, if_neg h02]
  rcases mem_oldValues_storeByte h with ⟨rfl, hv⟩ | h
  · rw [hv, State.cbByte_storeByte, if_neg h01]
  rcases mem_oldValues_storeByte h with ⟨-, hv⟩ | h
  · exact hv
  · simp [State.oldValues, hs] at h

/-- Settles O22: a fetch is one of the values the byte held, and one colour write adds one old value to them. -/
theorem busyWriteIsFetchedOldOrNew : Obligations.BusyWriteIsFetchedOldOrNew := by
  refine ⟨fun index r g b s t _ hraced h k => ?_, fun s k => List.mem_cons.mp (s.fetchByte_mem k),
    fun s k hrace ready => State.fetchByte_of_raced_nil (hrace ready) k⟩
  cases h
  rcases List.mem_cons.mp (State.fetchByte_mem _ k) with hnew | hold
  · exact .inr hnew
  · exact .inl (State.eq_of_mem_oldValues_storeColour hraced hold)

/-! ### The half a callback writes -/

/-- Settles O35: the event of a half runs the callback that writes that half only. -/
theorem callbackWritesOnlyTheHalfNotEmitted : Obligations.CallbackWritesOnlyTheHalfNotEmitted := by
  rintro s t ⟨hlength, -⟩ h
  constructor <;> intro he
  · have hx : ExecNext s.takeEvent .evHalf t := exec_next ((step_of_event he).symm.trans h)
    simpa only [State.halfCodes, hx.cfg, State.takeEvent_cfg, State.takeEvent_tb] using
      hx.drop_tb_of_evHalf
  · have hx : ExecNext s.takeEvent .evFull t := exec_next ((step_of_event he).symm.trans h)
    simpa only [State.halfCodes, hx.cfg, State.takeEvent_cfg, State.takeEvent_tb] using
      hx.take_tb_of_evFull hlength

/-! ### What a callback and `show` answer -/

section Answers

variable {s : State}

theorem exec_evHalf_of_more (transfer : s.inTransfer = true) (more : s.pc < s.cfg.pixelCount + 2) :
    exec .evHalf s = .next (s.refill .first) := by
  simp only [exec, execEvHalf, if_pos transfer, if_pos more]

theorem exec_evHalf_of_done (transfer : s.inTransfer = true) (done : s.cfg.pixelCount + 2 ≤ s.pc) :
    exec .evHalf s = .next s := by
  simp only [exec, execEvHalf, if_pos transfer, if_neg (Nat.not_lt.mpr done)]

theorem exec_evFull_of_more (transfer : s.inTransfer = true) (more : s.pc < s.cfg.pixelCount + 2) :
    exec .evFull s = .next (s.refill .second) := by
  simp only [exec, execEvFull, if_pos transfer, if_pos more]

theorem exec_evFull_of_done (transfer : s.inTransfer = true) (done : s.cfg.pixelCount + 2 ≤ s.pc) :
    exec .evFull s = .next s.terminate := by
  simp only [exec, execEvFull, if_pos transfer, if_neg (Nat.not_lt.mpr done)]

theorem exec_trigger_of_busy (busy : s.es = .busy ∨ s.teIdle = false) :
    exec .trigger s = .next (s.answer (.status .busy)) := by
  simp only [exec, execTrigger, if_pos busy]

theorem exec_trigger_of_ready (ready : s.es = .ready) (idle : s.teIdle = true) :
    exec .trigger s = .next s.startTransfer := by
  simp [exec, execTrigger, ready, idle]

end Answers

/-! ### What the Streaming Engine reads of the Colour Buffer -/

/-- The Colour Buffer `m` in the place of the state's own holds the same record of pixel `p`. -/
def State.SameRecord (s : State) (m : Memory) (p : Nat) : Prop :=
  ∀ j < s.cfg.channels, ({ s with cb := m } : State).cbByte (recordAddress s.cfg.toConfig p j) =
    s.cbByte (recordAddress s.cfg.toConfig p j)

section Reads

variable {s t : State} {m : Memory}

theorem State.SameRecord.record {p : Nat} (hm : s.SameRecord m p) :
    ({ s with cb := m } : State).record p = s.record p :=
  List.map_congr_left fun j hj => hm j (List.mem_range.mp hj)

/-- With no byte raced a refill stages the record of the pixel at the cursor as it stands (42_streaming_engine.md
R165). -/
theorem State.SameRecord.staged (hm : s.SameRecord m s.pc) (hraced : s.raced = []) :
    ({ s with cb := m } : State).staged = s.staged := by
  have hfetch : ({ s with cb := m } : State).fetchRecord s.pc = s.fetchRecord s.pc := by
    rw [State.fetchRecord_of_raced_nil (s := { s with cb := m }) hraced, hm.record,
      State.fetchRecord_of_raced_nil hraced]
  simp only [State.staged, hfetch]

theorem State.SameRecord.refill (hm : s.SameRecord m s.pc) (hraced : s.raced = []) (h : Half) :
    ({ s with cb := m } : State).refill h = { s.refill h with cb := m } := by
  simp only [State.refill_eq, hm.staged hraced]

/-- `show` stages the records of pixels 0 and 1 (42_streaming_engine.md R152). -/
theorem State.SameRecord.startTransfer (h0 : s.SameRecord m 0) (h1 : s.SameRecord m 1) :
    ({ s with cb := m } : State).startTransfer = { s.startTransfer with cb := m } := by
  have hstart : ({ s with cb := m } : State).seed.startAnswer = s.seed.startAnswer := rfl
  simp only [State.startTransfer_eq, State.encodedPixel, h0.record, h1.record, hstart]

theorem ExecNext.evHalf_sameRecord (h : ExecNext s .evHalf t) (hraced : s.raced = [])
    (hm : s.SameRecord m s.pc) : exec .evHalf { s with cb := m } = .next { t with cb := m } := by
  cases h with
  | colour writes => cases writes
  | halfRefill transfer more =>
    rw [← hm.refill hraced]
    exact exec_evHalf_of_more (s := { s with cb := m }) transfer more
  | halfNothing transfer done => exact exec_evHalf_of_done (s := { s with cb := m }) transfer done

theorem ExecNext.evFull_sameRecord (h : ExecNext s .evFull t) (hraced : s.raced = [])
    (hm : s.SameRecord m s.pc) : exec .evFull { s with cb := m } = .next { t with cb := m } := by
  cases h with
  | colour writes => cases writes
  | fullRefill transfer more =>
    rw [← hm.refill hraced]
    exact exec_evFull_of_more (s := { s with cb := m }) transfer more
  | fullTerminate transfer done => exact exec_evFull_of_done (s := { s with cb := m }) transfer done

theorem ExecNext.trigger_sameRecord (h : ExecNext s .trigger t) (h0 : s.SameRecord m 0)
    (h1 : s.SameRecord m 1) : exec .trigger { s with cb := m } = .next { t with cb := m } := by
  cases h with
  | colour writes => cases writes
  | showBusy busy => exact exec_trigger_of_busy (s := { s with cb := m }) busy
  | showAccepted ready idle =>
    rw [← h0.startTransfer h1]
    exact exec_trigger_of_ready (s := { s with cb := m }) ready idle

end Reads

/-- Settles O36: a callback reads `CB` in its refill only, `show` in its seed only. -/
theorem engineReadsOnlyTheStagedRecords : Obligations.EngineReadsOnlyTheStagedRecords :=
  ⟨fun _ _ _ hraced hm => ⟨fun h => (exec_next h).evHalf_sameRecord hraced hm,
      fun h => (exec_next h).evFull_sameRecord hraced hm⟩,
    fun _ _ _ hm h => (exec_next h).trigger_sameRecord (hm 0 Nat.two_pos) (hm 1 Nat.one_lt_two)⟩

end Sys2Proof.Machine
end

section
/-! PROOF. The encoding (30_encoding.md): the encoder and the decoder are inverse to each other, the opcode table says
which words they share, every other word is refused by name, and the codes of the answers. -/

namespace Sys2Proof

open Laws

/-! ### The decoder inverts the encoder -/

/-- Settles O2: the selector of the word picks the instruction's row of the decoder, and the unused fields are zero. -/
theorem everyInstructionDecodesFromItsWord : Obligations.EveryInstructionDecodesFromItsWord := by
  intro i
  cases i
  case init | clear | trigger | isReady | evHalf | evFull => rfl
  all_goals simp [encode, decode, decodeCommand, ifUnusedZero]

theorem decodeCommand_of_encode {w : CommandWord} {i : Instr} (h : encode i = .command w) :
    decodeCommand w = .ok i := by
  have hi : decode (encode i) = .ok i := everyInstructionDecodesFromItsWord i
  rwa [h] at hi

/-- The encoder assembles the word again from the fields the decoder read: the selector is the row's, an operand is
its field, and an unused field was found zero. -/
theorem encode_of_decodeCommand {w : CommandWord} {i : Instr} (h : decodeCommand w = .ok i) :
    encode i = .command w := by
  rw [decodeCommand] at h
  split at h
  case h_4 hop | h_5 hop =>
    cases h
    simp [encode, commandWord_ext_iff, opField_eq_of_toNat hop]
  case h_12 => cases h
  all_goals
    rename_i hop
    obtain ⟨hzero, rfl⟩ := ifUnusedZero_eq_ok.mp h
    simp only [Bool.and_eq_true, beq_iff_eq] at hzero
    simp [encode, commandWord_ext_iff, opField_eq_of_toNat hop, hzero]

theorem decodeCommand_eq_ok_iff {w : CommandWord} {i : Instr} :
    decodeCommand w = .ok i ↔ encode i = .command w :=
  ⟨encode_of_decodeCommand, decodeCommand_of_encode⟩

/-- Settles O3: encoding what was decoded gives the word back. -/
theorem decodedCommandIsTheWordOfItsOperation : Obligations.DecodedCommandIsTheWordOfItsOperation :=
  fun _ _ => encode_of_decodeCommand

/-! ### The opcode table -/

theorem exists_eq_commandWord (w : CommandWord) : ∃ op index a b c, w = commandWord op index a b c :=
  ⟨_, _, _, _, _, (commandWord_fields w).symm⟩

/-- A field whose mask is all ones is compared whole. -/
theorem byte_and_mask (x : Byte) : x &&& 0xFF#8 = x := BitVec.and_allOnes

theorem index_and_mask (x : Index) : x &&& 0xFFFF#16 = x := BitVec.and_allOnes

/-- A word of a row is the word of an instruction with the row's mnemonic: the row leaves free exactly the fields that
are operands of the instruction. -/
theorem exists_encode_of_accepts {row : OpcodeRow} (hrow : row ∈ commandRows) {w : CommandWord}
    (h : row.accepts w = true) : ∃ i, encode i = .command w ∧ i.mnemonic = row.mnemonic := by
  obtain ⟨op, index, a, b, c, rfl⟩ := exists_eq_commandWord w
  rw [WordOfRow.rows_commandWord] at h
  simp only [commandRows, List.mem_cons, List.not_mem_nil, or_false] at hrow
  rcases hrow with rfl | rfl | rfl | rfl | rfl | rfl | rfl | rfl | rfl | rfl | rfl
  all_goals
    simp only [opField, indexField, aField, bField, cField, BitVec.ofNat_eq_ofNat, BitVec.reduceExtractLsb',
      BitVec.extractLsb'_zero, byte_and_mask, index_and_mask, BitVec.and_zero, and_self, true_and, and_true] at h
    simp only [h]
  · exact ⟨.init, rfl, rfl⟩
  · exact ⟨.clear, rfl, rfl⟩
  · exact ⟨.setBrightness a, rfl, rfl⟩
  · exact ⟨.setPixelRgb index a b c, rfl, rfl⟩
  · exact ⟨.setPixelHsv index a b c, rfl, rfl⟩
  · exact ⟨.setPixelWhite index a, rfl, rfl⟩
  · exact ⟨.fillRgb a b c, rfl, rfl⟩
  · exact ⟨.fillHsv a b c, rfl, rfl⟩
  · exact ⟨.fillWhite a, rfl, rfl⟩
  · exact ⟨.trigger, rfl, rfl⟩
  · exact ⟨.isReady, rfl, rfl⟩

theorem wordOfRow : ∀ i : Instr, WordOfRow.Statement i
  | .init => WordOfRow.init
  | .clear => WordOfRow.clear
  | .setBrightness _ => WordOfRow.setBrightness _
  | .setPixelRgb _ _ _ _ => WordOfRow.setPixelRgb _ _ _ _
  | .setPixelHsv _ _ _ _ => WordOfRow.setPixelHsv _ _ _ _
  | .setPixelWhite _ _ => WordOfRow.setPixelWhite _ _
  | .fillRgb _ _ _ => WordOfRow.fillRgb _ _ _
  | .fillHsv _ _ _ => WordOfRow.fillHsv _ _ _
  | .fillWhite _ => WordOfRow.fillWhite _
  | .trigger => WordOfRow.trigger
  | .isReady => WordOfRow.isReady
  | .evHalf => WordOfRow.evHalf
  | .evFull => WordOfRow.evFull

/-- The word of an operation is a word of the row of its mnemonic. -/
theorem exists_row_of_encode {w : CommandWord} {i : Instr} (h : encode i = .command w) :
    ∃ row ∈ commandRows, row.accepts w = true ∧ row.mnemonic = i.mnemonic := by
  have hrows := wordOfRow i
  rw [WordOfRow.Statement, h] at hrows
  have hmem := hrows ▸ List.mem_singleton_self i.mnemonic
  simpa [List.mem_filterMap] using hmem

/-- No two rows of the table have the same mnemonic. -/
theorem eq_of_mnemonic_eq {row row' : OpcodeRow} (hrow : row ∈ commandRows) (hrow' : row' ∈ commandRows)
    (h : row.mnemonic = row'.mnemonic) : row = row' :=
  List.inj_on_of_nodup_map (by decide : (commandRows.map OpcodeRow.mnemonic).Nodup) hrow hrow' h

/-- Settles O4: the words of a row are the words of the operations with its mnemonic, and these are what decodes to
them. -/
theorem decoderFollowsTheOpcodeTable : Obligations.DecoderFollowsTheOpcodeTable := by
  intro w row hrow
  simp only [decodeCommand_eq_ok_iff]
  refine ⟨exists_encode_of_accepts hrow, fun ⟨i, hi, hname⟩ => ?_⟩
  obtain ⟨row', hrow', haccepts, hname'⟩ := exists_row_of_encode hi
  rwa [← eq_of_mnemonic_eq hrow' hrow (hname'.trans hname)]

/-! ### Reserved words -/

theorem decodeCommand_eq_reservedSelector_iff {w : CommandWord} :
    decodeCommand w = .error .reservedSelector ↔ 0x0B ≤ (opField w).toNat := by
  rw [decodeCommand]
  split
  case h_12 =>
    simp only [imp_false, true_iff] at *
    omega
  all_goals simp [ifUnusedZero_eq_error, *]

/-- A word is decoded exactly when some row of the table accepts it. -/
theorem exists_decodeCommand_eq_ok_iff {w : CommandWord} :
    (∃ i, decodeCommand w = .ok i) ↔ ∃ row ∈ commandRows, row.accepts w = true := by
  constructor
  · rintro ⟨i, hi⟩
    obtain ⟨row, hrow, haccepts, -⟩ := exists_row_of_encode (encode_of_decodeCommand hi)
    exact ⟨row, hrow, haccepts⟩
  · rintro ⟨row, hrow, haccepts⟩
    obtain ⟨i, hi, -⟩ := exists_encode_of_accepts hrow haccepts
    exact ⟨i, decodeCommand_of_encode hi⟩

/-- A word that spells no operation and whose selector is none of the reserved ones has an unused field that is not
zero: the decoder gives no third reason (30_encoding.md R89). -/
theorem decodeCommand_eq_unusedFieldNotZero_iff {w : CommandWord} :
    decodeCommand w = .error .unusedFieldNotZero ↔
      (opField w).toNat ≤ 0x0A ∧ ∀ row ∈ commandRows, row.accepts w = false := by
  have hreserved : (opField w).toNat ≤ 0x0A ↔ decodeCommand w ≠ .error .reservedSelector := by
    rw [Ne, decodeCommand_eq_reservedSelector_iff]
    omega
  have hrows : (∀ row ∈ commandRows, row.accepts w = false) ↔ ∀ i, decodeCommand w ≠ .ok i := by
    simpa using not_congr exists_decodeCommand_eq_ok_iff.symm
  rw [hreserved, hrows]
  rcases decodeCommand w with (_ | _) | i <;> simp

/-- Settles O5: the two errors are told apart by the selector and the rows, and a step passes the error on. -/
theorem reservedWordsAreRefused : Obligations.ReservedWordsAreRefused := by
  refine ⟨fun _ => decodeCommand_eq_reservedSelector_iff,
    fun _ => decodeCommand_eq_unusedFieldNotZero_iff, fun s w rest e he hi hd => ?_⟩
  simp only [Machine.step, Machine.fetched_of_command he hi, decode, hd]

/-- Settles O1: the decoder is run on each word. -/
theorem sampleWordsDecode : Obligations.SampleWordsDecode :=
  ⟨rfl, rfl, rfl, rfl, rfl, rfl, rfl, rfl, rfl, rfl, rfl, rfl⟩

/-! ### The codes of the answers -/

/-- `isReady` answers the engine state, which is one of two (30_encoding.md R88). -/
theorem engineReply_code (e : Machine.EngineState) :
    (Machine.Reply.engine e).code ≠ 2#2 ∧ (Machine.Reply.engine e).code ≠ 3#2 := by
  cases e <;> decide

/-- Settles O42: the six codes by evaluation; `isReady` leaves an engine state in `reply`. -/
theorem statusCodesFollowTheTable : Obligations.StatusCodesFollowTheTable := by
  refine ⟨rfl, rfl, rfl, rfl, rfl, rfl, fun s t h => ?_⟩
  cases h
  exact ⟨.engine s.es, rfl, engineReply_code s.es⟩

end Sys2Proof
end

section
/-! PROOF. The Color Pipeline (40_color_pipeline.md): the integer laws of brightness, gamma and the HSV
conversion, and what each operation leaves in each byte of `CB`. -/

namespace Sys2Proof.Machine

/-! ### Brightness and gamma -/

/-- The quotient of a byte is a byte, so nothing is truncated (40_color_pipeline.md R111). -/
theorem bright_toNat (br x : Byte) : (bright br x).toNat = x.toNat / (256 / (br.toNat + 1)) :=
  (BitVec.toNat_ofNat ..).trans (Nat.mod_eq_of_lt ((Nat.div_le_self ..).trans_lt x.isLt))

/-- From 128 on the divisor is 1. -/
theorem bright_of_le {br : Byte} (h : 128 ≤ br.toNat) (x : Byte) : bright br x = x := by
  have hdiv : 256 / (br.toNat + 1) = 1 := Nat.div_eq_of_lt_le (by omega) (by omega)
  apply BitVec.eq_of_toNat_eq
  rw [bright_toNat, hdiv, Nat.div_one]

/-- Brightness 0 divides by 256, which exceeds every byte. -/
theorem bright_zero_left (x : Byte) : bright 0#8 x = 0#8 := by
  apply BitVec.eq_of_toNat_eq
  rw [bright_toNat]
  exact Nat.div_eq_of_lt x.isLt

@[simp] theorem bright_zero_right (br : Byte) : bright br 0#8 = 0#8 := by
  apply BitVec.eq_of_toNat_eq
  rw [bright_toNat]
  exact Nat.zero_div _

/-- Settles O10: the law in natural numbers, and its two ends. -/
theorem brightnessLawIsExact : Obligations.BrightnessLawIsExact :=
  ⟨bright_toNat, fun _ x h => bright_of_le h x, bright_zero_left⟩

/-- The upper byte of a 16-bit number is a byte, so nothing is truncated. -/
theorem toNat_ofNat_shiftRight_eight {n : Nat} (h : n < 2 ^ 16) : (BitVec.ofNat 8 (n >>> 8)).toNat = n / 256 := by
  rw [BitVec.toNat_ofNat, Nat.shiftRight_eq_div_pow]
  omega

theorem scale8_toNat (x s : Byte) : (scale8 x s).toNat = x.toNat * s.toNat / 256 :=
  toNat_ofNat_shiftRight_eight
    (calc x.toNat * s.toNat < 2 ^ 8 * 2 ^ 8 := Nat.mul_lt_mul'' x.isLt s.isLt
      _ = 2 ^ 16 := rfl)

section Gamma

variable {c : Config}

theorem gammaGreen_toNat (h : c.gamma = true) (x : Byte) : (gammaGreen c x).toNat = x.toNat * 176 / 256 := by
  rw [gammaGreen, if_pos h]
  exact scale8_toNat x 0xB0#8

theorem gammaBlue_toNat (h : c.gamma = true) (x : Byte) : (gammaBlue c x).toNat = x.toNat * 240 / 256 := by
  rw [gammaBlue, if_pos h]
  exact scale8_toNat x 0xF0#8

theorem gammaGreen_of_disabled (h : c.gamma = false) (x : Byte) : gammaGreen c x = x := by
  simp [gammaGreen, h]

theorem gammaBlue_of_disabled (h : c.gamma = false) (x : Byte) : gammaBlue c x = x := by
  simp [gammaBlue, h]

@[simp] theorem gammaGreen_zero : gammaGreen c 0#8 = 0#8 := ite_self _

@[simp] theorem gammaBlue_zero : gammaBlue c 0#8 = 0#8 := ite_self _

end Gamma

/-- Settles O11: both factors are below 256, so the products of a byte stay below 176 and 240 times 256. -/
theorem gammaLawIsExact : Obligations.GammaLawIsExact := by
  refine fun c x => ⟨fun enabled => ?_, fun disabled =>
    ⟨gammaGreen_of_disabled disabled x, gammaBlue_of_disabled disabled x⟩⟩
  have hx := x.isLt
  rw [gammaGreen_toNat enabled, gammaBlue_toNat enabled]
  omega

/-! ### The HSV conversion -/

/-- `rem`, the position of a hue in its sector, scaled by 6 (40_color_pipeline.md R115). -/
def hsvRem (hue : Byte) : Nat := (hue.toNat - 43 * (hue.toNat / 43)) * 6

/-- The value lowered by `m`: each of `p`, `q` and `t` is one (40_color_pipeline.md R115). -/
def lowered (val : Byte) (m : Nat) : Byte := BitVec.ofNat 8 ((val.toNat * (255 - m)) >>> 8)

/-- `p`, lowered by the saturation. -/
def hsvP (sat val : Byte) : Byte := lowered val sat.toNat

/-- `q`, lowered the more the further the hue is in its sector. -/
def hsvQ (hue sat val : Byte) : Byte := lowered val ((sat.toNat * hsvRem hue) >>> 8)

/-- `t`, lowered the less the further the hue is in its sector. -/
def hsvT (hue sat val : Byte) : Byte := lowered val ((sat.toNat * (255 - hsvRem hue)) >>> 8)

theorem hsvRem_le (hue : Byte) : hsvRem hue ≤ 252 := by
  unfold hsvRem
  omega

/-- The product of a value and what is left of 255. -/
theorem mul_lowered_le (val : Byte) (m : Nat) : val.toNat * (255 - m) ≤ 255 * 255 :=
  Nat.mul_le_mul (Nat.le_of_lt_succ val.isLt) (Nat.sub_le ..)

theorem lowered_toNat (val : Byte) (m : Nat) : (lowered val m).toNat = val.toNat * (255 - m) / 256 :=
  toNat_ofNat_shiftRight_eight ((mul_lowered_le val m).trans_lt (by decide))

theorem lowered_le (val : Byte) (m : Nat) : (lowered val m).toNat ≤ 254 := by
  have := mul_lowered_le val m
  rw [lowered_toNat]
  omega

theorem lowered_zero (m : Nat) : lowered 0#8 m = 0#8 := by simp [lowered]

theorem hsvQ_toNat (hue sat val : Byte) :
    (hsvQ hue sat val).toNat = val.toNat * (255 - sat.toNat * hsvRem hue / 256) / 256 := by
  rw [hsvQ, lowered_toNat, Nat.shiftRight_eq_div_pow]

theorem hsvT_toNat (hue sat val : Byte) :
    (hsvT hue sat val).toNat = val.toNat * (255 - sat.toNat * (255 - hsvRem hue) / 256) / 256 := by
  rw [hsvT, lowered_toNat, Nat.shiftRight_eq_div_pow]

theorem hsv2rgb_of_grey (hue val : Byte) : hsv2rgb hue 0#8 val = (val, val, val) := rfl

/-- The sector table (40_color_pipeline.md R115). -/
theorem hsv2rgb_of_sector {hue sat : Byte} (hsat : sat ≠ 0#8) (val : Byte) :
    (hue.toNat / 43 = 0 → hsv2rgb hue sat val = (val, hsvT hue sat val, hsvP sat val)) ∧
    (hue.toNat / 43 = 1 → hsv2rgb hue sat val = (hsvQ hue sat val, val, hsvP sat val)) ∧
    (hue.toNat / 43 = 2 → hsv2rgb hue sat val = (hsvP sat val, val, hsvT hue sat val)) ∧
    (hue.toNat / 43 = 3 → hsv2rgb hue sat val = (hsvP sat val, hsvQ hue sat val, val)) ∧
    (hue.toNat / 43 = 4 → hsv2rgb hue sat val = (hsvT hue sat val, hsvP sat val, val)) ∧
    (hue.toNat / 43 = 5 → hsv2rgb hue sat val = (val, hsvP sat val, hsvQ hue sat val)) := by
  refine ⟨?_, ?_, ?_, ?_, ?_, ?_⟩ <;> intro h <;>
    simp only [hsv2rgb, if_neg hsat, hsvP, hsvQ, hsvT, hsvRem, lowered, h]

theorem sector_le (hue : Byte) : hue.toNat / 43 ≤ 5 := by omega

/-- With no value each of `p`, `q`, `t` is 0, in whatever sector. -/
theorem hsv2rgb_of_black (hue sat : Byte) : hsv2rgb hue sat 0#8 = (0#8, 0#8, 0#8) := by
  by_cases hsat : sat = 0#8
  · rw [hsat, hsv2rgb_of_grey]
  · have hle := sector_le hue
    obtain ⟨h0, h1, h2, h3, h4, h5⟩ := hsv2rgb_of_sector (hue := hue) hsat 0#8
    simp only [hsvP, hsvQ, hsvT, lowered_zero] at h0 h1 h2 h3 h4 h5
    interval_cases hue.toNat / 43
    · exact h0 rfl
    · exact h1 rfl
    · exact h2 rfl
    · exact h3 rfl
    · exact h4 rfl
    · exact h5 rfl

/-- Settles O13: the two degenerate colours, the ranges of `rem`, `p`, `q`, `t`, and the sector table. -/
theorem hsvConversionIsExact : Obligations.HsvConversionIsExact := by
  refine ⟨hsv2rgb_of_grey, hsv2rgb_of_black, fun hue sat val hsat => ?_⟩
  obtain ⟨h0, h1, h2, h3, h4, h5⟩ := hsv2rgb_of_sector (hue := hue) hsat val
  exact ⟨hsvRem hue, hsvP sat val, hsvQ hue sat val, hsvT hue sat val, rfl, hsvRem_le hue,
    lowered_toNat .., hsvQ_toNat .., hsvT_toNat .., lowered_le .., lowered_le .., lowered_le ..,
    h0, h1, h2, h3, h4, h5, sector_le hue⟩

/-! ### What the operations answer -/

section Answers

variable (s : State)

theorem exec_setBrightness (b : Byte) :
    exec (.setBrightness b) s = .next ({ s with br := b }.answer (.status .ok)) := rfl

theorem exec_setPixelRgb (index : Index) (r g b : Byte) : exec (.setPixelRgb index r g b) s =
    .next ((s.storeColour (pixelOf s.cfg.toConfig index) r g b).answer (.status .ok)) := rfl

theorem exec_setPixelHsv (index : Index) (hue sat val : Byte) : exec (.setPixelHsv index hue sat val) s =
    exec (.setPixelRgb index (hsv2rgb hue sat val).1 (hsv2rgb hue sat val).2.1 (hsv2rgb hue sat val).2.2) s := rfl

theorem exec_fillRgb (r g b : Byte) : exec (.fillRgb r g b) s =
    .next ((s.forEachPixel fun s i => s.storeColour i r g b).answer (.status .ok)) := rfl

theorem exec_fillHsv (hue sat val : Byte) : exec (.fillHsv hue sat val) s =
    exec (.fillRgb (hsv2rgb hue sat val).1 (hsv2rgb hue sat val).2.1 (hsv2rgb hue sat val).2.2) s := rfl

theorem exec_clear : exec .clear s =
    .next (((List.range s.cfg.colourBytes).foldl (fun s k => s.storeByte k 0#8) s).answer (.status .ok)) := rfl

variable {s}

theorem exec_setPixelWhite_of_three (h3 : s.cfg.channels = 3) (index : Index) (w : Byte) :
    exec (.setPixelWhite index w) s = .next (s.answer (.status .paramError)) := by
  simp only [exec, execSetPixelWhite, if_pos h3]

theorem exec_setPixelWhite_of_four (h4 : s.cfg.channels = 4) (index : Index) (w : Byte) :
    exec (.setPixelWhite index w) s =
      .next ((s.storeWhite (pixelOf s.cfg.toConfig index) w).answer (.status .ok)) := by
  simp [exec, execSetPixelWhite, h4]

theorem exec_fillWhite_of_three (h3 : s.cfg.channels = 3) (w : Byte) :
    exec (.fillWhite w) s = .next (s.answer (.status .paramError)) := by
  simp only [exec, execFillWhite, if_pos h3]

theorem exec_fillWhite_of_four (h4 : s.cfg.channels = 4) (w : Byte) :
    exec (.fillWhite w) s = .next ((s.forEachPixel fun s i => s.storeWhite i w).answer (.status .ok)) := by
  simp [exec, execFillWhite, h4]

end Answers

/-- Settles O21: none of the five has another way to end. -/
theorem colourOperationsAreTotal : Obligations.ColourOperationsAreTotal := fun s =>
  ⟨fun b => ⟨_, exec_setBrightness s b, rfl⟩, fun i r g b => ⟨_, exec_setPixelRgb s i r g b, rfl⟩,
    fun i h v x => ⟨_, exec_setPixelHsv s i h v x, rfl⟩, fun r g b => ⟨_, exec_fillRgb s r g b, rfl⟩,
    fun h v x => ⟨_, exec_fillHsv s h v x, rfl⟩⟩

/-- An answer writes no byte of `CB`. -/
@[simp] theorem State.cbByte_answer (s : State) (r : Reply) : (s.answer r).cbByte = s.cbByte := rfl

/-- Stores followed by an answer keep the frame of a colour operation. -/
theorem StoresOnly.colourFrame {s u : State} (h : StoresOnly s u) (r : Reply) : ColourFrame s (u.answer r) :=
  ⟨congrArg (State.answer · r) h.1, h.2⟩

/-! ### One pixel -/

/-- Red is the channel whose position tells the wire orders apart (20_memory.md R53). -/
theorem storedAt_red (c : Config) (br r g b : Byte) :
    storedAt c br r g b (if c.order = .grb then 1 else 0) = bright br r := by
  cases h : c.order <;> simp [storedAt, storedColour, inWireOrder, h]

theorem storedAt_green (c : Config) (br r g b : Byte) :
    storedAt c br r g b (if c.order = .grb then 0 else 1) = gammaGreen c (bright br g) := by
  cases h : c.order <;> simp [storedAt, storedColour, inWireOrder, h]

theorem storedAt_blue (c : Config) (br r g b : Byte) :
    storedAt c br r g b 2 = gammaBlue c (bright br b) := by
  cases h : c.order <;> simp [storedAt, storedColour, inWireOrder, h]

/-- Settles O12: the three stored bytes by position, and the frame of a store. -/
theorem setPixelRgbStoresTheScaledColour : Obligations.SetPixelRgbStoresTheScaledColour := by
  intro index r g b s
  have hbyte := fun j (hj : j < 3) => s.cbByte_storeColour_at (pixelOf s.cfg.toConfig index) r g b hj
  have hred := storedAt_red s.cfg.toConfig s.br r g b
  have hgreen := storedAt_green s.cfg.toConfig s.br r g b
  refine ⟨_, exec_setPixelRgb s index r g b, rfl, (State.storeColour_storesOnly ..).colourFrame _,
    fun grb => ?_, fun rgb => ?_, (hbyte 2 (by decide)).trans (storedAt_blue ..),
    fun k hk => State.cbByte_storeColour_of_ne s _ r g b hk⟩
  · rw [if_pos grb] at hred hgreen
    exact ⟨(hbyte 0 (by decide)).trans hgreen, (hbyte 1 (by decide)).trans hred⟩
  · rw [if_neg (by rw [rgb]; decide)] at hred hgreen
    exact ⟨(hbyte 0 (by decide)).trans hred, (hbyte 1 (by decide)).trans hgreen⟩

/-- Settles O14: the frame is that of SET_PIXEL_RGB, whatever the colour converted to. -/
theorem setPixelHsvDelegatesToSetPixelRgb : Obligations.SetPixelHsvDelegatesToSetPixelRgb := by
  intro index hue sat val s
  rw [exec_setPixelHsv, exec_setPixelHsv, hsv2rgb_of_grey]
  exact ⟨⟨_, exec_setPixelRgb .., rfl, (State.storeColour_storesOnly ..).colourFrame _,
    fun k hk => State.cbByte_storeColour_of_ne s _ _ _ _ hk, exec_setPixelRgb ..⟩, rfl⟩

/-- The record of pixel 0 begins `CB`. -/
theorem recordAddress_pixelOf_zero (c : Config) (j : Nat) : recordAddress c (pixelOf c 0#16) j = j := by
  simp [recordAddress, pixelOf]

/-- Settles O9: one field is written, and the byte stored before keeps the brightness it was stored with. -/
theorem setBrightnessWritesOnlyBrightness : Obligations.SetBrightnessWritesOnlyBrightness := by
  refine ⟨fun b s => ⟨_, exec_setBrightness s b, rfl, fun _ => rfl⟩, fun _ => rfl, fun s => ?_⟩
  have hstored : ∀ u : State, u.br = 127#8 → u.cfg = s.cfg →
      (u.storeColour (pixelOf u.cfg.toConfig 0#16) 255#8 0#8 0#8).cbByte
        (if s.cfg.order = .grb then 1 else 0) = 127#8 := by
    intro u hbr hcfg
    have hred := u.cbByte_storeColour_at (pixelOf u.cfg.toConfig 0#16) 255#8 0#8 0#8
      (j := if u.cfg.order = .grb then 1 else 0) (by split_ifs <;> decide)
    rw [recordAddress_pixelOf_zero, storedAt_red, hbr, hcfg] at hred
    rw [hcfg]
    exact hred
  exact ⟨_, _, _, exec_setBrightness .., exec_setPixelRgb .., exec_setBrightness ..,
    hstored _ rfl rfl, hstored _ rfl rfl⟩

/-- On 4 channels the white byte is the last of its record (20_memory.md R50). -/
theorem recordAddress_white {c : Config} (h4 : c.channels = 4) (i : Nat) :
    recordAddress c i whitePosition = 4 * i + 3 := by
  rw [recordAddress, h4, whitePosition]

/-- Settles O15: the white byte of the pixel on 4 channels, nothing but the answer on 3. -/
theorem setPixelWhiteStoresTheWhiteByte : Obligations.SetPixelWhiteStoresTheWhiteByte := by
  have hbyte : ∀ (s : State), s.cfg.channels = 4 → ∀ (i : Nat) (w : Byte) (k : Nat),
      (s.storeWhite i w).cbByte k = if k = 4 * i + 3 then bright s.br w else s.cbByte k := by
    intro s h4 i w k
    rw [State.cbByte_storeWhite, recordAddress_white h4]
  refine ⟨fun index w s h4 => ?_, fun index w s h3 => exec_setPixelWhite_of_three h3 index w,
    fun _ _ => rfl, fun s h4 h2 hbr => ?_⟩
  · exact ⟨_, exec_setPixelWhite_of_four h4 index w, rfl, (State.storeWhite_storesOnly ..).colourFrame _,
      (hbyte s h4 ..).trans (if_pos rfl), fun k hk => (hbyte s h4 ..).trans (if_neg hk)⟩
  · refine ⟨_, exec_setPixelWhite_of_four h4 _ _, ?_⟩
    have hpixel : pixelOf s.cfg.toConfig 3#16 = 1 := by rw [pixelOf, h2]; rfl
    rw [State.cbByte_answer, hbyte s h4, hpixel, hbr]
    rfl

/-! ### Every pixel -/

/-- A white byte is at no address of a colour byte. -/
theorem recordAddress_ne_colour {c : Config} {i j : Nat} (hj : j < c.channels) (h3 : 3 ≤ j) (i' : Nat) :
    ∀ j' < 3, recordAddress c i j ≠ recordAddress c i' j' := by
  intro j' hj' h
  have := (recordAddress_inj hj (by omega) h).2
  omega

section Fill

variable (s : State) (r g b : Byte)

theorem State.cbByte_forEachPixel_storeColour {i j : Nat} (hi : i < s.cfg.pixelCount) (hj : j < 3) :
    (s.forEachPixel fun s i => s.storeColour i r g b).cbByte (recordAddress s.cfg.toConfig i j) =
      storedAt s.cfg.toConfig s.br r g b j :=
  (s.cbByte_fillColour r g b s.cfg.pixelCount).1 i hi j hj

theorem State.cbByte_forEachPixel_storeColour_of_ne {k : Nat}
    (hk : ∀ i < s.cfg.pixelCount, ∀ j < 3, k ≠ recordAddress s.cfg.toConfig i j) :
    (s.forEachPixel fun s i => s.storeColour i r g b).cbByte k = s.cbByte k :=
  (s.cbByte_fillColour r g b s.cfg.pixelCount).2 k hk

theorem State.storesOnly_forEachPixel_storeColour :
    StoresOnly s (s.forEachPixel fun s i => s.storeColour i r g b) :=
  State.forEachPixel_storesOnly (fun _ _ => State.storeColour_storesOnly ..) s

/-- A fill gives a pixel the record that the store of that pixel alone gives it: both store the same three colour
bytes, and neither touches a white byte. -/
theorem State.cbByte_forEachPixel_eq_storeColour {i j : Nat} (hi : i < s.cfg.pixelCount)
    (hj : j < s.cfg.channels) :
    (s.forEachPixel fun s i => s.storeColour i r g b).cbByte (recordAddress s.cfg.toConfig i j) =
      (s.storeColour i r g b).cbByte (recordAddress s.cfg.toConfig i j) := by
  by_cases h3 : j < 3
  · rw [s.cbByte_forEachPixel_storeColour r g b hi h3, s.cbByte_storeColour_at i r g b h3]
  · have hne := recordAddress_ne_colour (i := i) hj (Nat.le_of_not_lt h3)
    rw [s.cbByte_forEachPixel_storeColour_of_ne r g b fun i' _ => hne i',
      s.cbByte_storeColour_of_ne i r g b (hne i)]

/-- The whole of `CB` after a fill of two 3-channel pixels. -/
theorem State.map_cbByte_forEachPixel_storeColour (h2 : s.cfg.pixelCount = 2) (h3 : s.cfg.channels = 3) :
    (List.range 6).map (s.forEachPixel fun s i => s.storeColour i r g b).cbByte =
      [0, 1, 2, 0, 1, 2].map (storedAt s.cfg.toConfig s.br r g b) := by
  have hbyte : ∀ i < 2, ∀ j < 3, (s.forEachPixel fun s i => s.storeColour i r g b).cbByte (3 * i + j) =
      storedAt s.cfg.toConfig s.br r g b j := by
    intro i hi j hj
    have hstored := s.cbByte_forEachPixel_storeColour r g b (h2 ▸ hi) hj
    rwa [recordAddress, h3] at hstored
  have haddress : List.range 6 = [3 * 0 + 0, 3 * 0 + 1, 3 * 0 + 2, 3 * 1 + 0, 3 * 1 + 1, 3 * 1 + 2] := rfl
  simp only [haddress, List.map_cons, List.map_nil, hbyte, Nat.reduceLT]

/-- Full brightness without gamma stores the colour as it is. -/
theorem storedColour_of_full {c : Config} (hgamma : c.gamma = false) :
    storedColour c 255#8 r g b = inWireOrder c.order r g b := by
  have hbright : ∀ x : Byte, bright 255#8 x = x := bright_of_le (by decide)
  simp only [storedColour, gammaGreen_of_disabled hgamma, gammaBlue_of_disabled hgamma, hbright]

end Fill

/-- Settles O17: every pixel by position, as the store of that pixel alone. -/
theorem fillRgbStoresEveryPixel : Obligations.FillRgbStoresEveryPixel := by
  refine ⟨fun r g b s => ?_, fun _ _ _ => rfl, fun s h2 h3 hrgb hbr hgamma => ?_⟩
  · have hbyte := fun i (hi : i < s.cfg.pixelCount) j (hj : j < 3) =>
      s.cbByte_forEachPixel_storeColour r g b hi hj
    refine ⟨_, exec_fillRgb s r g b, rfl, (s.storesOnly_forEachPixel_storeColour r g b).colourFrame _,
      fun i hi => ⟨hbyte i hi 0 (by decide), hbyte i hi 1 (by decide), hbyte i hi 2 (by decide)⟩,
      fun k hk => s.cbByte_forEachPixel_storeColour_of_ne r g b hk, fun index u hindex hu j hj => ?_⟩
    cases hu
    rw [show pixelOf s.cfg.toConfig index = index.toNat from Nat.mod_eq_of_lt hindex]
    exact s.cbByte_forEachPixel_eq_storeColour r g b hindex hj
  · refine ⟨_, exec_fillRgb s _ _ _, ?_⟩
    rw [State.cbByte_answer, s.map_cbByte_forEachPixel_storeColour _ _ _ h2 h3, hbr]
    simp only [List.map_cons, List.map_nil, storedAt, storedColour_of_full _ _ _ hgamma, hrgb, inWireOrder]

/-- Settles O18: FILL_HSV is FILL_RGB, and SET_PIXEL_HSV is SET_PIXEL_RGB, of the colour converted once. -/
theorem fillHsvEqualsPerPixelSetPixelHsv : Obligations.FillHsvEqualsPerPixelSetPixelHsv := by
  obtain ⟨hfill, -, -⟩ := fillRgbStoresEveryPixel
  refine ⟨fun hue sat val s => ?_, fun _ _ _ => rfl, fun s h2 h3 hgrb hbr hgamma => ?_⟩
  · obtain ⟨t, ht, hreply, hframe, -, hother, hpixel⟩ :=
      hfill (hsv2rgb hue sat val).1 (hsv2rgb hue sat val).2.1 (hsv2rgb hue sat val).2.2 s
    exact ⟨t, (exec_fillHsv ..).trans ht, hreply, hframe, hother, ht,
      fun index u hindex hu => hpixel index u hindex ((exec_setPixelHsv ..).symm.trans hu)⟩
  · have hred : hsv2rgb 0#8 255#8 255#8 = (255#8, 0#8, 0#8) := by decide
    refine ⟨_, (exec_fillHsv ..).trans (exec_fillRgb ..), ?_⟩
    rw [State.cbByte_answer, s.map_cbByte_forEachPixel_storeColour _ _ _ h2 h3, hbr, hred]
    simp only [List.map_cons, List.map_nil, storedAt, storedColour_of_full _ _ _ hgamma, hgrb, inWireOrder]

/-- Settles O19: the white bytes by the loop over the pixels on 4 channels, nothing but the answer on 3. -/
theorem fillWhiteStoresEveryWhiteByte : Obligations.FillWhiteStoresEveryWhiteByte := by
  refine ⟨fun w s h4 => ?_, fun w s h3 => exec_fillWhite_of_three h3 w⟩
  have hbytes := s.cbByte_fillWhite w s.cfg.pixelCount
  simp only [recordAddress_white h4] at hbytes
  obtain ⟨hwhite, hother⟩ := hbytes
  exact ⟨_, exec_fillWhite_of_four h4 w, rfl,
    (State.forEachPixel_storesOnly (fun _ _ => State.storeWhite_storesOnly ..) s).colourFrame _, hwhite, hother⟩

/-! ### CLEAR -/

/-- Black is stored as 0 in every channel. -/
theorem storedAt_black (c : Config) (br : Byte) (j : Nat) : storedAt c br 0#8 0#8 0#8 j = 0#8 := by
  have hblack : storedColour c br 0#8 0#8 0#8 = (0#8, 0#8, 0#8) := by
    cases h : c.order <;> simp [storedColour, inWireOrder, h]
  unfold storedAt
  split <;> rw [hblack]

/-- FILL_WHITE leaves every byte that is no white byte, and on 3 channels every byte. -/
theorem cbByte_of_exec_fillWhite {s t : State} {w : Byte} (h : exec (.fillWhite w) s = .next t) {k : Nat}
    (hk : s.cfg.channels = 4 → ∀ i < s.cfg.pixelCount, k ≠ recordAddress s.cfg.toConfig i whitePosition) :
    t.cbByte k = s.cbByte k := by
  rcases s.cfg.channels_eq with h3 | h4
  · rw [exec_fillWhite_of_three h3] at h
    cases h
    rfl
  · rw [exec_fillWhite_of_four h4] at h
    cases h
    exact (s.cbByte_fillWhite w s.cfg.pixelCount).2 k (hk h4)

/-- FILL_RGB with black and then FILL_WHITE with 0 zero `CB`: a byte of it is a colour byte or a white byte of a
pixel (40_color_pipeline.md R125). -/
theorem cbByte_of_black_fills {s u v : State} (hu : exec (.fillRgb 0#8 0#8 0#8) s = .next u)
    (hv : exec (.fillWhite 0#8) u = .next v) (k : Nat) :
    v.cbByte k = if k < s.cfg.colourBytes then 0#8 else s.cbByte k := by
  rw [exec_fillRgb] at hu
  injection hu with hu
  have hcfg : u.cfg = s.cfg := hu ▸ (s.storesOnly_forEachPixel_storeColour 0#8 0#8 0#8).cfg
  have three_le := s.cfg.three_le_channels
  split_ifs with hk
  · obtain ⟨i, hi, j, hj, rfl⟩ := exists_recordAddress hk
    by_cases h3 : j < 3
    · rw [cbByte_of_exec_fillWhite hv, ← hu, State.cbByte_answer,
        s.cbByte_forEachPixel_storeColour _ _ _ hi h3, storedAt_black]
      rw [hcfg]
      intro h4 i' _ h
      exact recordAddress_ne_colour (j := whitePosition) (by rw [h4]; decide) le_rfl i j h3 h.symm
    · have h4 : s.cfg.channels = 4 := s.cfg.channels_eq.resolve_left (by omega)
      obtain rfl : j = whitePosition := by unfold whitePosition; omega
      rw [exec_fillWhite_of_four (hcfg ▸ h4)] at hv
      cases hv
      rw [← hcfg] at hi ⊢
      exact ((u.cbByte_fillWhite 0#8 u.cfg.pixelCount).1 i hi).trans (bright_zero_right _)
  · have outside : ∀ i < s.cfg.pixelCount, ∀ j < s.cfg.channels, k ≠ recordAddress s.cfg.toConfig i j :=
      fun i hi j hj h => hk (h ▸ recordAddress_lt hi hj)
    rw [cbByte_of_exec_fillWhite hv, ← hu, State.cbByte_answer,
      s.cbByte_forEachPixel_storeColour_of_ne _ _ _ fun i hi j hj => outside i hi j (by omega)]
    rw [hcfg]
    exact fun h4 i hi => outside i hi whitePosition (by rw [h4]; decide)

/-- Settles O20: `clear` and the two black fills leave the same in each byte. -/
theorem clearZeroesTheColourBuffer : Obligations.ClearZeroesTheColourBuffer := by
  have hbyte := fun s : State => s.cbByte_clear s.cfg.colourBytes
  refine ⟨fun s => ⟨_, exec_clear s, rfl,
    (foldl_storesOnly (fun _ _ => State.storeByte_storesOnly ..) _ s).colourFrame _,
    fun k hk => (hbyte s k).trans (if_pos hk), fun k hk => (hbyte s k).trans (if_neg (Nat.not_lt.mpr hk))⟩,
    fun s t u v ht hu hv k => ?_⟩
  cases ht
  exact (hbyte s k).trans (cbByte_of_black_fills hu hv k).symm

end Sys2Proof.Machine
end

section
/-! PROOF. The Bit Encoder (41_bit_encoder.md): the eight codes of a byte, what a receiver makes of them, and the one
half of `TB` that `encodePixel` and `zeroHalf` write. -/

namespace Sys2Proof.Machine

/-! ### The codes of a byte -/

/-- Shifting `v` left by `i` moves bit `7 - i` to the place that the mask `0x80` tests (R140). -/
theorem shiftLeft_and_0x80_ne_zero_iff {i : Nat} (hi : i < 8) (v : Byte) :
    (v.toNat <<< i) &&& 0x80 ≠ 0 ↔ v.getLsbD (7 - i) = true := by
  have hbit : (v.toNat <<< i).testBit 7 = v.getLsbD (7 - i) := by
    rw [Nat.testBit_shiftLeft, decide_eq_true (by omega : i ≤ 7), Bool.true_and, BitVec.testBit_toNat]
  rw [show 0x80 = 2 ^ 7 from rfl, Nat.and_two_pow, hbit]
  cases v.getLsbD (7 - i) <;> decide

/-- The code of one bit (41_bit_encoder.md R140). -/
def bitCode (c : Config) (bit : Bool) : Nat := if bit = true then c.highCode else c.lowCode

theorem encodeByte_getElem? (c : Config) (v : Byte) {i : Nat} (hi : i < 8) :
    (encodeByte c v)[i]? = some (bitCode c (v.getLsbD (7 - i))) := by
  simp only [encodeByte, List.getElem?_map, List.getElem?_range hi, Option.map_some,
    shiftLeft_and_0x80_ne_zero_iff hi, bitCode]

/-- Settles O23: the shift test and the bit are one condition. -/
theorem encodeByteIsMsbFirst : Obligations.EncodeByteIsMsbFirst := by
  refine fun c v => ⟨encodeByte_length c v, fun i hi => ⟨?_, encodeByte_getElem? c v hi⟩⟩
  simp only [encodeByte_getElem? c v hi, bitCode, ← Nat.shiftLeft_eq, shiftLeft_and_0x80_ne_zero_iff hi]

/-! ### The codes of a record -/

@[simp] theorem encodeRecord_nil (c : Config) : encodeRecord c [] = [] := rfl

@[simp] theorem encodeRecord_cons (c : Config) (v : Byte) (r : List Byte) :
    encodeRecord c (v :: r) = encodeByte c v ++ encodeRecord c r := rfl

theorem encodeRecord_cons_ne_nil (c : Config) (v : Byte) (r : List Byte) : encodeRecord c (v :: r) ≠ [] :=
  List.append_ne_nil_of_left_ne_nil (List.ne_nil_of_length_pos (by simp)) _

/-- The byte at position `j` of a record has the codes `8 * j` to `8 * j + 7` (20_memory.md R51). -/
theorem encodeRecord_getElem? (c : Config) {r : List Byte} {j i : Nat} {v : Byte} (hv : r[j]? = some v)
    (hi : i < 8) : (encodeRecord c r)[8 * j + i]? = (encodeByte c v)[i]? := by
  induction r generalizing j with
  | nil => nomatch hv
  | cons u r ih =>
    cases j with
    | zero =>
      obtain rfl : u = v := Option.some.inj hv
      rw [encodeRecord_cons, List.getElem?_append_left (by rw [encodeByte_length]; omega), Nat.mul_zero,
        Nat.zero_add]
    | succ j =>
      rw [encodeRecord_cons, List.getElem?_append_right (by rw [encodeByte_length]; omega),
        encodeByte_length, show 8 * (j + 1) + i - 8 = 8 * j + i by omega]
      exact ih hv

theorem State.fetchRecord_getElem? (s : State) (p : Nat) {j : Nat} (hj : j < s.cfg.channels) :
    (s.fetchRecord p)[j]? = some (s.fetchByte (recordAddress s.cfg.toConfig p j)) := by
  rw [State.fetchRecord, List.getElem?_map, List.getElem?_range hj, Option.map_some]

/-! ### One half of the Transfer Buffer -/

section Halves

variable {c : Setup} {tb codes : List Nat}

theorem codesOf_getElem? (c : Config) (tb : List Nat) (h : Half) {k : Nat} (hk : k < c.half) :
    (codesOf c tb h)[k]? = tb[h.base c + k]? := by
  cases h
  · rw [codesOf, List.getElem?_take_of_lt hk, Half.base, Nat.zero_add]
  · rw [codesOf, List.getElem?_drop, Half.base]

theorem replaceHalf_getElem?_inside (h : Half) (htb : tb.length = c.bufferLength)
    (hc : codes.length = c.half) {k : Nat} (hk : k < c.half) :
    (replaceHalf c.toConfig tb h codes)[h.base c.toConfig + k]? = codes[k]? := by
  rw [← codesOf_getElem? c.toConfig _ h hk, codesOf_replaceHalf_same h htb hc]

theorem replaceHalf_getElem?_outside (h : Half) (htb : tb.length = c.bufferLength)
    (hc : codes.length = c.half) {k : Nat}
    (hk : k < h.base c.toConfig ∨ h.base c.toConfig + c.half ≤ k) :
    (replaceHalf c.toConfig tb h codes)[k]? = tb[k]? := by
  have hother := codesOf_replaceHalf_other h htb hc
  by_cases hlt : k < c.bufferLength
  · -- `k` is an index of the other half, which is left as it was.
    obtain ⟨m, hm, rfl⟩ : ∃ m < c.half, h.other.base c.toConfig + m = k := by
      have := c.bufferLength_eq
      cases h <;> simp only [Half.base, Half.other] at hk ⊢
      · exact ⟨k - c.half, by omega, by omega⟩
      · exact ⟨k, by omega, by omega⟩
    rw [← codesOf_getElem? c.toConfig _ h.other hm, hother, codesOf_getElem? c.toConfig _ h.other hm]
  · rw [List.getElem?_eq_none (by rw [length_replaceHalf h htb hc]; omega),
      List.getElem?_eq_none (by omega)]

end Halves

/-- Settles O24: the placement within the record, and the frame of replacing one half. -/
theorem encodePixelWritesOneHalf : Obligations.EncodePixelWritesOneHalf := by
  intro s p h htb
  have hcodes := s.encodeRecord_fetchRecord_length p
  refine ⟨fun j hj i hi => ?_, State.fetchByte_of_raced_nil,
    fun k hk => replaceHalf_getElem?_outside h htb hcodes hk, length_replaceHalf h htb hcodes, rfl⟩
  have hk : 8 * j + i < s.cfg.half := by unfold Config.half; omega
  rw [State.encodePixel_tb, Nat.add_assoc, replaceHalf_getElem?_inside h htb hcodes hk,
    encodeRecord_getElem? _ (s.fetchRecord_getElem? p hj) hi]

/-- Settles O25: `HALF` zeros replace one half. -/
theorem zeroHalfClearsOneHalf : Obligations.ZeroHalfClearsOneHalf := by
  refine ⟨fun s h htb => ?_, fun _ => rfl, fun s h3 _ => ?_⟩
  · have hzeros : (List.replicate s.cfg.half 0).length = s.cfg.half := List.length_replicate
    refine ⟨fun k hk => ?_, fun k hk => replaceHalf_getElem?_outside h htb hzeros hk, rfl⟩
    rw [State.zeroHalf_tb, replaceHalf_getElem?_inside h htb hzeros hk, List.getElem?_replicate_of_lt hk]
  · have hhalf : s.cfg.half = 24 := by rw [Config.half, h3]
    rw [State.zeroHalf_tb, replaceHalf, hhalf]

/-! ### What a receiver makes of the codes -/

/-- A receiver tells the two codes of a legal configuration apart (30_encoding.md R86). -/
theorem receiveCode_bitCode (c : Setup) (n : Nat) (bit : Bool) :
    receiveCode c.toConfig (some n) (bitCode c.toConfig bit) = some (2 * n + bit.toNat) := by
  have hne := c.lowCode_lt_highCode.ne
  cases bit <;> simp [receiveCode, symbolOf, bitCode, hne]

/-- The `n` most significant bits of a byte, from one fewer and the next. -/
theorem two_mul_shiftRight_succ_add_getLsbD (v : Byte) (k : Nat) :
    2 * (v.toNat >>> (k + 1)) + (v.getLsbD k).toNat = v.toNat >>> k := by
  rw [← BitVec.testBit_toNat, Nat.toNat_testBit, ← Nat.shiftRight_eq_div_pow, Nat.shiftRight_succ]
  exact Nat.div_add_mod _ 2

/-- After `n` codes of a byte the receiver holds the byte's `n` most significant bits. -/
theorem receivedValue_take_encodeByte (c : Setup) (v : Byte) {n : Nat} (hn : n ≤ 8) :
    receivedValue c.toConfig ((encodeByte c.toConfig v).take n) = some (v.toNat >>> (8 - n)) := by
  induction n with
  | zero => rw [Nat.shiftRight_eq_zero _ _ v.isLt]; rfl
  | succ n ih =>
    have hprefix := ih (by omega)
    rw [receivedValue] at hprefix ⊢
    rw [List.take_add_one, encodeByte_getElem? _ _ hn, List.foldl_append, hprefix]
    calc receiveCode c.toConfig (some (v.toNat >>> (8 - n))) (bitCode c.toConfig (v.getLsbD (7 - n)))
      _ = some (2 * (v.toNat >>> (8 - n)) + (v.getLsbD (7 - n)).toNat) := receiveCode_bitCode ..
      _ = some (v.toNat >>> (8 - (n + 1))) := by
        rw [show 8 - n = 7 - n + 1 by omega, two_mul_shiftRight_succ_add_getLsbD, Nat.add_comm n,
          Nat.sub_add_eq]

theorem receivedValue_encodeByte (c : Setup) (v : Byte) :
    receivedValue c.toConfig (encodeByte c.toConfig v) = some v.toNat := by
  have hall := receivedValue_take_encodeByte c v le_rfl
  rwa [List.take_of_length_le (encodeByte_length ..).le] at hall

/-- What a receiver can recover, the encoding cannot confuse. -/
theorem encodeByte_injective (c : Setup) : Function.Injective (encodeByte c.toConfig) := by
  intro u v h
  have hvalue := receivedValue_encodeByte c u
  rw [h, receivedValue_encodeByte, Option.some.injEq] at hvalue
  exact BitVec.eq_of_toNat_eq hvalue.symm

/-- All bytes have eight codes, so the codes of a record fall apart into those of its bytes in one way. -/
theorem encodeRecord_injective (c : Setup) : Function.Injective (encodeRecord c.toConfig) := by
  intro r₁ r₂ h
  induction r₁ generalizing r₂ with
  | nil =>
    cases r₂ with
    | nil => rfl
    | cons v r => exact (encodeRecord_cons_ne_nil _ v r h.symm).elim
  | cons u r₁ ih =>
    cases r₂ with
    | nil => exact (encodeRecord_cons_ne_nil _ u r₁ h).elim
    | cons v r₂ =>
      have hlength : (encodeByte c.toConfig u).length = (encodeByte c.toConfig v).length := by simp
      obtain ⟨hbyte, hrest⟩ := List.append_inj h hlength
      rw [encodeByte_injective c hbyte, ih hrest]

/-- A code of a record is not the reset code. -/
theorem encodeRecord_ne_zero (c : Setup) {r : List Byte} {code : Nat}
    (h : code ∈ encodeRecord c.toConfig r) : code ≠ 0 := by
  have hlow := c.lowCode_pos
  have hhigh := c.lowCode_lt_highCode
  rcases encodeRecord_isCode h with rfl | rfl <;> omega

/-- Settles O26: the receiver is a left inverse of the encoder. -/
theorem encodingIsInjective : Obligations.EncodingIsInjective := fun c =>
  ⟨fun _ _ h => encodeRecord_injective c h, fun _ _ h => encodeRecord_ne_zero c h, receivedValue_encodeByte c⟩

end Sys2Proof.Machine
end

section
/-! PROOF. The Streaming Engine (42_streaming_engine.md): what its three operations and two callbacks answer, when it
leaves `BUSY`, and the course of one transfer from an accepted `show` to the terminating event. -/

namespace Sys2Proof.Machine

/-! ### The operations of the caller -/

section Operations

variable {s : State}

theorem exec_init_of_ready (ready : s.es = .ready) :
    exec .init s = .next { s with es := .ready, pc := 0, wire := [], reply := some (.status .ok) } :=
  if_neg (by rw [ready]; nofun)

theorem exec_init_of_busy (busy : s.es = .busy) : exec .init s = .refused .initWhileBusy := if_pos busy

theorem exec_isReady (s : State) : exec .isReady s = .next { s with reply := some (.engine s.es) } := rfl

/-- The answer of `te_start` is the environment's next one (43_serializer.md R181); the seed uses up none. -/
theorem State.seed_startAnswer {a : Bool} {answers : List Bool} (h : s.startAnswers = a :: answers) :
    s.seed.startAnswer = a := by
  simp only [State.startAnswer, State.seed_startAnswers, h]

theorem State.startTransfer_tb_eq (s : State) : s.startTransfer.tb = s.encodedPixel 0 ++ s.encodedPixel 1 := by
  rw [State.startTransfer_eq]

end Operations

/-- Settles O27: what the first `init` leaves is `READY`, so the second does the same again. -/
theorem initResetsTheControlState : Obligations.InitResetsTheControlState :=
  ⟨fun _ ready => ⟨_, exec_init_of_ready ready, rfl, exec_init_of_ready rfl⟩, fun _ => exec_init_of_busy⟩

/-- Settles O29: the busy path of `show`. -/
theorem busyShowPerformsNoWork : Obligations.BusyShowPerformsNoWork := fun _ => exec_trigger_of_busy

/-- Settles O28: the accepted path of `show`, split by the answer of `te_start`. -/
theorem acceptedShowStartsATransfer : Obligations.AcceptedShowStartsATransfer := by
  intro s ready stopped
  refine ⟨s.startTransfer, exec_trigger_of_ready ready ((State.teIdle_iff s).mpr stopped), rfl, rfl,
    s.startTransfer_tb_eq, s.startTransfer_tb_length, fun answers h => ?_, fun answers h => ?_, ?_, rfl⟩
  · simp [State.seed_startAnswer h, h]
  · simp [State.seed_startAnswer h, h, stopped]
  · cases hstart : s.seed.startAnswer
    · exact .inr (by simp [hstart, stopped])
    · exact .inl (by simp [hstart])

/-- Settles O30: `isReady` copies `ES`, which an accepted `show` has made `BUSY`; with the reference serializer
`READY` has the Transfer Engine idle. -/
theorem isReadyReturnsTheEngineState : Obligations.IsReadyReturnsTheEngineState := by
  refine ⟨exec_isReady, rfl, fun s t u ready idle ht hu => ?_,
    fun s _ notIdle => exec_trigger_of_busy (.inr notIdle), fun s hs ready => ?_⟩
  · rw [exec_trigger_of_ready ready idle] at ht
    cases ht
    cases hu
    rfl
  · obtain ⟨hrun, -⟩ := hs
    have stopped : s.teRunning = false := by
      by_contra hr
      exact absurd (ready.symm.trans (hrun (by simpa using hr))) nofun
    exact exec_trigger_of_ready ready ((State.teIdle_iff s).mpr stopped)

/-! ### The callbacks -/

section Callbacks

variable {s : State}

theorem State.refill_of_pixel (h : Half) (hpc : s.pc < s.cfg.pixelCount) :
    s.refill h = { s.encodePixel s.pc h with pc := s.pc + 1 } := if_pos hpc

theorem State.refill_of_tail (h : Half) (hpc : s.cfg.pixelCount ≤ s.pc) :
    s.refill h = { s.zeroHalf h with pc := s.pc + 1 } := if_neg (Nat.not_lt.mpr hpc)

theorem State.refill_tb_length (s : State) (h : Half) (htb : s.tb.length = s.cfg.bufferLength) :
    (s.refill h).tb.length = s.cfg.bufferLength := by
  rw [State.refill_eq]
  exact length_replaceHalf h htb s.staged_length

theorem encodeByte_zero (c : Config) : encodeByte c 0#8 = List.replicate 8 c.lowCode := rfl

theorem encodeByte_full (c : Config) : encodeByte c 255#8 = List.replicate 8 c.highCode := rfl

/-- The codes of the rule's example (42_streaming_engine.md R154): two dark bytes and a full one. -/
theorem encodeRecord_example (c : Config) : encodeRecord c [0#8, 0#8, 255#8] =
    List.replicate 16 c.lowCode ++ List.replicate 8 c.highCode := by
  simp only [encodeRecord_cons, encodeRecord_nil, encodeByte_zero, encodeByte_full]
  rfl

end Callbacks

/-- Settles O31, by the place of the cursor. -/
theorem evHalfRefillsTheFirstHalf : Obligations.EvHalfRefillsTheFirstHalf := by
  refine ⟨fun s transfer hpc => ?_, fun s transfer hN hpc => ?_, fun s => exec_evHalf_of_done, rfl,
    fun s transfer hraced hN hC hpc hrecord => ?_⟩
  · refine ⟨_, exec_evHalf_of_more transfer (by omega), State.refill_pc .., ?_,
      fun hraced => State.fetchRecord_of_raced_nil hraced _, ?_⟩ <;> rw [State.refill_of_pixel _ hpc] <;> rfl
  · rw [exec_evHalf_of_more transfer hpc, State.refill_of_tail _ hN]
    rfl
  · have hhalf : s.cfg.half = 24 := by rw [Config.half, hC]
    have hcodes : encodeRecord s.cfg.toConfig (s.fetchRecord 2) =
        List.replicate 16 s.cfg.lowCode ++ List.replicate 8 s.cfg.highCode := by
      rw [State.fetchRecord_of_raced_nil hraced, hrecord, encodeRecord_example]
    refine ⟨_, exec_evHalf_of_more transfer (by omega), by rw [State.refill_pc, hpc], ?_⟩
    rw [State.refill_of_pixel _ (by omega), ← hcodes, hpc]
    exact List.take_left' ((s.encodeRecord_fetchRecord_length 2).trans hhalf)

/-- Settles O32, by the place of the cursor. -/
theorem evFullRefillsTheSecondHalf : Obligations.EvFullRefillsTheSecondHalf := by
  refine ⟨fun s transfer hpc => ?_, fun s transfer hN hpc => ?_⟩
  all_goals
    obtain ⟨busy, running⟩ := (State.inTransfer_iff s).mp transfer
    refine ⟨_, exec_evFull_of_more transfer (by omega), ?_⟩
  · rw [State.refill_of_pixel _ hpc]
    exact ⟨rfl, busy, running, rfl, fun hraced => State.fetchRecord_of_raced_nil hraced _, rfl⟩
  · rw [State.refill_of_tail _ hN]
    exact ⟨busy, running, rfl⟩

/-- Settles O33: the last case of the full-consumed callback. -/
theorem evFullTerminatesTheTransfer : Obligations.EvFullTerminatesTheTransfer := fun _ => exec_evFull_of_done

/-! ### Leaving `BUSY` -/

section Busy

variable {s t : State}

/-- The full-consumed callback makes the engine `READY` by ending a transfer only. -/
theorem ExecNext.terminates (h : ExecNext s .evFull t) (busy : s.es = .busy) (ready : t.es = .ready) :
    s.teRunning = true ∧ s.cfg.pixelCount + 2 ≤ s.pc ∧ t = s.terminate := by
  cases h with
  | colour writes => cases writes
  | fullRefill => exact absurd (busy.symm.trans ((State.refill_es ..).symm.trans ready)) nofun
  | fullTerminate transfer done => exact ⟨((State.inTransfer_iff s).mp transfer).2, done, rfl⟩

/-- The one step that leaves `BUSY` (10_state.md R33, 42_streaming_engine.md R158). -/
theorem step_terminates (h : step s = .next t) (busy : s.es = .busy) (ready : t.es = .ready) :
    s.event = some 1#1 ∧ s.teRunning = true ∧ s.cfg.pixelCount + 2 ≤ s.pc ∧ t = s.takeEvent.terminate := by
  rcases step_next h with ⟨-, h⟩ | ⟨he, h⟩ | ⟨w, rest, i, -, -, hd, h⟩ | ⟨-, -, h⟩
  · exact absurd ((exec_next h).becomesReady_iff.mp ⟨busy, ready⟩).1 nofun
  · exact ⟨he, (exec_next h).terminates busy ready⟩
  · exact absurd ((exec_next h).becomesReady_iff.mp ⟨busy, ready⟩).1 (decodeCommand_ne_event hd).2
  · obtain ⟨-, hes, -⟩ := emit_control h
    exact absurd (busy.symm.trans (hes.symm.trans ready)) nofun

/-- With the engine `BUSY` and the Transfer Engine stopped no instruction moves either, `TB`, or the cursor
(42_streaming_engine.md R173): `init` and the callbacks are refused, `show` finds the engine busy. -/
theorem ExecNext.failedStart {i : Instr} (h : ExecNext s i t) (busy : s.es = .busy) (stopped : s.teRunning = false) :
    t.es = .busy ∧ t.teRunning = false ∧ t.event = s.event ∧ t.wire = s.wire ∧ t.tb = s.tb ∧ t.pc = s.pc := by
  have noTransfer : s.inTransfer ≠ true := by simp [State.inTransfer, stopped]
  cases h with
  | init ready | showAccepted ready => exact absurd (busy.symm.trans ready) nofun
  | colour _ u r stores _ => rw [stores.1]; exact ⟨busy, stopped, rfl, rfl, rfl, rfl⟩
  | halfRefill transfer | halfNothing transfer | fullRefill transfer | fullTerminate transfer =>
    exact absurd transfer noTransfer
  | setBrightness | showBusy | isReady => exact ⟨busy, stopped, rfl, rfl, rfl, rfl⟩

end Busy

/-- Settles O43: one step leaves `BUSY`, and `show` is answered by its busy path. -/
theorem atMostOneTransferInFlight : Obligations.AtMostOneTransferInFlight := by
  refine fun s t busy h => ⟨?_, exec_trigger_of_busy (.inl busy)⟩
  by_cases hbusy : t.es = .busy
  · exact .inl hbusy
  · obtain ⟨he, running, done, -⟩ := step_terminates h busy (EngineState.ready_of_ne_busy hbusy)
    exact .inr ⟨he, running, done⟩

/-- Settles O44: the caller's commands move nothing of this, and a stopped Transfer Engine emits nothing. -/
theorem failedStartLeavesTheEngineBusy : Obligations.FailedStartLeavesTheEngineBusy := by
  intro s t busy stopped he h
  rcases step_next h with ⟨hev, -⟩ | ⟨hev, -⟩ | ⟨w, rest, i, -, -, -, h⟩ | ⟨-, -, h⟩
  · exact absurd (he.symm.trans hev) nofun
  · exact absurd (he.symm.trans hev) nofun
  · rw [← he]
    exact (exec_next h).failedStart busy stopped
  · rcases emit_next h with ⟨-, rfl⟩ | ⟨hr, -⟩
    · exact ⟨busy, stopped, he, rfl, rfl, rfl⟩
    · exact absurd (stopped.symm.trans hr) nofun

/-- Settles O49. -/
theorem controlInvariantIsKept : Obligations.ControlInvariantIsKept := fun _ _ => step_controlOk

/-- Settles O52: `terminate` leaves `TB`, which the invariant has all zero once the cursor is at `N + 2`. -/
theorem transferBufferIsZeroAtTheEnd : Obligations.TransferBufferIsZeroAtTheEnd := by
  rintro s t ⟨-, -, ⟨-, hcursor⟩, -, -, -, hstream⟩ busy h ready
  obtain ⟨he, running, done, rfl⟩ := step_terminates h busy ready
  obtain ⟨-, -, hend⟩ := hstream running
  have hpc : s.pc = s.cfg.pixelCount + 2 := (hcursor busy).2.antisymm done
  exact ⟨he, hpc, rfl, rfl, (hend hpc).1⟩

/-! ### The units of a frame -/

/-- Unit `i` of the frame: the codes of pixel `i` or, from `N` on, one zero half (42_streaming_engine.md R165). -/
def State.frameUnit (s : State) (i : Nat) : List Nat :=
  if i < s.cfg.pixelCount then s.encodedPixel i else List.replicate s.cfg.half 0

section Units

variable {s : State}

theorem State.frameUnit_of_pixel {i : Nat} (h : i < s.cfg.pixelCount) : s.frameUnit i = s.encodedPixel i := if_pos h

theorem State.frameUnit_of_tail {i : Nat} (h : s.cfg.pixelCount ≤ i) :
    s.frameUnit i = List.replicate s.cfg.half 0 := if_neg (Nat.not_lt.mpr h)

@[simp] theorem State.frameUnit_length (s : State) (i : Nat) : (s.frameUnit i).length = s.cfg.half := by
  unfold State.frameUnit
  split_ifs
  · exact s.encodedPixel_length i
  · exact List.length_replicate

/-- Every unit of the frame is reported by one event (42_streaming_engine.md R166, 43_serializer.md R190). -/
theorem transferEvents_eq (c : Config) : transferEvents c = c.pixelCount + tailHalves c := by
  unfold transferEvents tailHalves
  split_ifs <;> omega

/-- The frame is its units, one for each event of the transfer. -/
theorem State.flatMap_frameUnit (s : State) :
    (List.range (transferEvents s.cfg.toConfig)).flatMap s.frameUnit = s.frame := by
  have hpixels : (List.range s.cfg.pixelCount).flatMap s.frameUnit =
      (List.range s.cfg.pixelCount).flatMap s.encodedPixel :=
    List.flatMap_congr fun i hi => State.frameUnit_of_pixel (List.mem_range.mp hi)
  have htail (n : Nat) : (List.range n).flatMap (fun i => s.frameUnit (s.cfg.pixelCount + i)) =
      List.replicate (s.cfg.half * n) 0 := by
    induction n with
    | zero => rfl
    | succ n ih =>
      rw [List.range_succ, List.flatMap_append, ih, List.flatMap_singleton, State.frameUnit_of_tail (by omega),
        ← List.replicate_add, Nat.mul_succ]
  rw [transferEvents_eq, List.range_add, List.flatMap_append, hpixels, List.flatMap_map, htail]
  rfl

end Units

/-! ### The course of a transfer -/

/-- The event that reports the consumption of a half (43_serializer.md R185). -/
def Half.event : Half → EventWord
  | .first => 0#1
  | .second => 1#1

/-- The callback of that event (30_encoding.md R83). -/
def Half.callback : Half → Instr
  | .first => .evHalf
  | .second => .evFull

theorem Half.decodeEvent_event (h : Half) : decodeEvent h.event = h.callback := by cases h <;> rfl

theorem exec_callback_of_more {s : State} (h : Half) (transfer : s.inTransfer = true)
    (more : s.pc < s.cfg.pixelCount + 2) : exec h.callback s = .next (s.refill h) := by
  cases h
  · exact exec_evHalf_of_more transfer more
  · exact exec_evFull_of_more transfer more

/-- The Transfer Engine's move from code `q` of a half, in one line: to the next code, or past the last one to the
other half, with the event (43_serializer.md R185). -/
theorem State.advance_of_half {s : State} (h : Half) {q : Nat} (hq : q < s.cfg.half)
    (hpos : s.tePos = h.base s.cfg.toConfig + q) : s.advance =
      if q + 1 = s.cfg.half then
        { s with tePos := h.other.base s.cfg.toConfig, event := some h.event }
      else { s with tePos := h.base s.cfg.toConfig + (q + 1) } := by
  have hlength := s.cfg.bufferLength_eq
  cases h with
  | first =>
    replace hpos : s.tePos = q := hpos.trans (Nat.zero_add q)
    simp only [Half.base, Half.other, Half.event, Nat.zero_add]
    rw [State.advance, hpos]
    split_ifs with hlast
    · rw [hlast]
      rfl
    · omega
    · rfl
  | second =>
    replace hpos : s.tePos = s.cfg.half + q := hpos
    simp only [Half.base, Half.other, Half.event]
    rw [State.advance, hpos, if_neg (by omega)]
    exact if_congr (by omega) rfl rfl

theorem emit_of_code {s : State} {code : Nat} (running : s.teRunning = true) (hread : s.tb[s.tePos]? = some code) :
    s.emit = .next ({ s with wire := s.wire ++ [code] } : State).advance := by
  simp only [State.emit, if_pos running, hread]

theorem State.record_congr {s t : State} (hcfg : t.cfg = s.cfg) (hcb : t.cb = s.cb) : t.record = s.record := by
  funext i
  simp only [State.record, hcfg, State.cbByte_congr hcb]

/-- A transfer of the frame of `s`, in state `v`, when `e` units have gone out and been reported, and `q` codes of
unit `e`: unit `e` stands in half `e mod 2` and unit `e + 1` in the other half, and after the last code of unit `e`
its event is raised (42_streaming_engine.md R163 to R166). -/
structure State.Streams (s : State) (e q : Nat) (v : State) : Prop where
  cfg : v.cfg = s.cfg
  cb : v.cb = s.cb
  raced : v.raced = []
  busy : v.es = .busy
  running : v.teRunning = true
  cursor : v.pc = min (e + 2) (s.cfg.pixelCount + 2)
  length : v.tb.length = s.cfg.bufferLength
  current : codesOf s.cfg.toConfig v.tb (halfOfPixel e) = s.frameUnit e
  following : codesOf s.cfg.toConfig v.tb (halfOfPixel e).other = s.frameUnit (e + 1)
  wire : v.wire = s.wire ++ (List.range e).flatMap s.frameUnit ++ (s.frameUnit e).take q
  position : v.tePos = if q = s.cfg.half then (halfOfPixel e).other.base s.cfg.toConfig
    else (halfOfPixel e).base s.cfg.toConfig + q
  event : v.event = if q = s.cfg.half then some (halfOfPixel e).event else none

section Course

variable {s v : State} {e q : Nat}

/-- An accepted `show` that starts the Transfer Engine: nothing has gone out, units 0 and 1 are staged. -/
theorem State.Streams.start (hevent : s.event = none) (hstart : s.seed.startAnswer = true) :
    s.Streams 0 0 s.startTransfer where
  cfg := rfl
  cb := rfl
  raced := rfl
  busy := rfl
  running := by simp [hstart]
  cursor := by simp
  length := s.startTransfer_tb_length
  current := by
    have hN := s.cfg.two_le_pixelCount
    rw [State.startTransfer_tb_eq, State.frameUnit_of_pixel (by omega)]
    exact List.take_left' (s.encodedPixel_length 0)
  following := by
    have hN := s.cfg.two_le_pixelCount
    rw [State.startTransfer_tb_eq, State.frameUnit_of_pixel (by omega)]
    exact List.drop_left' (s.encodedPixel_length 0)
  wire := by simp
  position := by simp [hstart, s.cfg.half_pos.ne, halfOfPixel, Half.base]
  event := by simp [hevent, s.cfg.half_pos.ne]

theorem State.Streams.withInputs (h : s.Streams e q v) (inputs : List Input) :
    s.Streams e q { v with inputs := inputs } := { h with }

/-- One emission: code `q` of unit `e` goes out (43_serializer.md R185). -/
theorem State.Streams.emit (h : s.Streams e q v) (hq : q < s.cfg.half) :
    ∃ w, v.emit = .next w ∧ s.Streams e (q + 1) w ∧ w.inputs = v.inputs := by
  obtain ⟨code, hcode⟩ : ∃ code, (s.frameUnit e)[q]? = some code :=
    ⟨_, List.getElem?_eq_getElem (by simpa using hq)⟩
  have hpos := h.position.trans (if_neg hq.ne)
  have hevent := h.event.trans (if_neg hq.ne)
  have hread : v.tb[v.tePos]? = some code := by
    rw [hpos, ← codesOf_getElem? _ _ _ hq, h.current, hcode]
  have hwire : v.wire ++ [code] =
      s.wire ++ (List.range e).flatMap s.frameUnit ++ (s.frameUnit e).take (q + 1) := by
    rw [h.wire, List.take_add_one, hcode, List.append_assoc _ _ [code]]
    rfl
  refine ⟨_, emit_of_code h.running hread, ?_, State.advance_inputs _⟩
  rw [State.advance_of_half (halfOfPixel e) (h.cfg ▸ hq) (h.cfg ▸ hpos)]
  simp only [h.cfg]
  split_ifs with hlast
  · exact { h with cfg := rfl, wire := hwire, position := (if_pos hlast).symm, event := (if_pos hlast).symm }
  · exact { h with
      cfg := rfl, wire := hwire, position := (if_neg hlast).symm, event := hevent.trans (if_neg hlast).symm }

/-- One step of the Transfer Engine, when the caller's next operation is no command: a pulse, if there is one, is
used up. -/
theorem State.Streams.step_code (h : s.Streams e q v) (hq : q < s.cfg.half)
    (hi : ∀ w rest, v.inputs ≠ .command w :: rest) :
    ∃ w, step v = .next w ∧ s.Streams e (q + 1) w ∧ w.inputs = v.inputs.tail := by
  have hf : v.fetched = none := State.fetched_eq_none.mpr ⟨h.event.trans (if_neg hq.ne), hi⟩
  have hstep : step v = v.pulseStep := by simp only [step, hf]
  rw [hstep]
  exact (h.withInputs v.inputs.tail).emit hq

theorem State.Streams.step_event (h : s.Streams e s.cfg.half v) :
    step v = exec (halfOfPixel e).callback v.takeEvent := by
  rw [step_of_event (h.event.trans (if_pos rfl)), Half.decodeEvent_event]

theorem State.Streams.inTransfer (h : s.Streams e q v) : v.takeEvent.inTransfer = true :=
  (State.inTransfer_iff _).mpr ⟨h.busy, h.running⟩

/-- Past the last pixel the cursor stands at `N + 2`. -/
theorem State.Streams.done (h : s.Streams e q v) (he : s.cfg.pixelCount ≤ e) :
    v.takeEvent.cfg.pixelCount + 2 ≤ v.takeEvent.pc := by
  have hcursor := h.cursor
  rw [State.takeEvent_pc, State.takeEvent_cfg, h.cfg]
  omega

/-- What the event of unit `e` has staged is unit `e + 2`, from `CB` as `show` found it. -/
theorem State.Streams.staged (h : s.Streams e q v) (he : e < s.cfg.pixelCount) : v.staged = s.frameUnit (e + 2) := by
  have hpc : v.pc = e + 2 := by rw [h.cursor]; omega
  rw [State.staged, State.frameUnit, State.fetchRecord_of_raced_nil h.raced, State.record_congr h.cfg h.cb,
    h.cfg, hpc]
  rfl

/-- The units whose events have been raised are on the wire. -/
theorem State.Streams.wire_of_raised (h : s.Streams e s.cfg.half v) :
    v.wire = s.wire ++ (List.range (e + 1)).flatMap s.frameUnit := by
  rw [h.wire, List.take_of_length_le (s.frameUnit_length e).le, List.append_assoc, List.range_succ,
    List.flatMap_append, List.flatMap_singleton]

/-- After an event that does not end the transfer the halves change places: unit `e + 1` is current, and unit
`e + 2` is to follow. -/
theorem State.Streams.swap (h : s.Streams e s.cfg.half v) {tb : List Nat} {pc : Nat} (draws : Nat)
    (cursor : pc = min (e + 3) (s.cfg.pixelCount + 2)) (length : tb.length = s.cfg.bufferLength)
    (current : codesOf s.cfg.toConfig tb (halfOfPixel e).other = s.frameUnit (e + 1))
    (following : codesOf s.cfg.toConfig tb (halfOfPixel e) = s.frameUnit (e + 2)) :
    s.Streams (e + 1) 0 { v.takeEvent with tb := tb, pc := pc, draws := draws } := by
  have hzero : ¬ 0 = s.cfg.half := s.cfg.half_pos.ne
  refine { h with cursor, length, current := ?_, following := ?_, wire := ?_, position := ?_, event := ?_ }
  · rwa [halfOfPixel_succ]
  · rwa [halfOfPixel_succ, Half.other_other]
  · rw [List.take_zero, List.append_nil]
    exact h.wire_of_raised
  · rw [if_neg hzero, halfOfPixel_succ]
    exact h.position.trans (if_pos rfl)
  · exact (if_neg hzero).symm

/-- The event of unit `e` for a pixel `e`: unit `e + 2` replaces unit `e` (42_streaming_engine.md R154, R157). -/
theorem State.Streams.step_refill (h : s.Streams e s.cfg.half v) (he : e < s.cfg.pixelCount) :
    ∃ w, step v = .next w ∧ s.Streams (e + 1) 0 w ∧ w.inputs = v.inputs := by
  have hcursor := h.cursor
  have more : v.takeEvent.pc < v.takeEvent.cfg.pixelCount + 2 := by
    rw [State.takeEvent_pc, State.takeEvent_cfg, h.cfg]
    omega
  have htb : v.takeEvent.tb.length = v.takeEvent.cfg.bufferLength := by
    rw [State.takeEvent_tb, State.takeEvent_cfg, h.cfg, h.length]
  have hlength := v.takeEvent.refill_tb_length (halfOfPixel e) htb
  have hother := v.takeEvent.codesOf_refill_other (halfOfPixel e) htb
  have hsame := v.takeEvent.codesOf_refill_same (halfOfPixel e) htb
  rw [State.takeEvent_cfg, h.cfg] at hlength hother hsame
  refine ⟨_, h.step_event.trans (exec_callback_of_more _ h.inTransfer more), ?_, State.refill_inputs ..⟩
  rw [State.refill_eq] at hlength hother hsame ⊢
  exact h.swap _ (by rw [State.takeEvent_pc]; omega) hlength (hother.trans h.following) (hsame.trans (h.staged he))

/-- Past the last pixel the half-consumed event leaves everything: units `e` and `e + 2` are both zero
(42_streaming_engine.md R155). -/
theorem State.Streams.step_nothing (h : s.Streams e s.cfg.half v) (hfirst : halfOfPixel e = .first)
    (he : s.cfg.pixelCount ≤ e) : ∃ w, step v = .next w ∧ s.Streams (e + 1) 0 w ∧ w.inputs = v.inputs := by
  have hcursor := h.cursor
  refine ⟨v.takeEvent, ?_, h.swap v.draws (by omega) h.length h.following (h.current.trans ?_), rfl⟩
  · rw [h.step_event, hfirst]
    exact exec_evHalf_of_done h.inTransfer (h.done he)
  · rw [State.frameUnit_of_tail he, State.frameUnit_of_tail (by omega)]

/-- The event of unit `e`, when it is not the last one: the only one past the pixels is that of unit `N` for an even
`N` (42_streaming_engine.md R166). -/
theorem State.Streams.step_unit (h : s.Streams e s.cfg.half v) (more : e + 1 < transferEvents s.cfg.toConfig) :
    ∃ w, step v = .next w ∧ s.Streams (e + 1) 0 w ∧ w.inputs = v.inputs := by
  by_cases he : e < s.cfg.pixelCount
  · exact h.step_refill he
  · have hE : transferEvents s.cfg.toConfig = 2 * (s.cfg.pixelCount / 2) + 2 := rfl
    have heven : e % 2 = 0 := by omega
    exact h.step_nothing (if_pos heven) (Nat.le_of_not_lt he)

/-- The event of the last unit is a full-consumed one and ends the transfer (42_streaming_engine.md R158, R166). -/
theorem State.Streams.step_last (h : s.Streams e s.cfg.half v) (last : e + 1 = transferEvents s.cfg.toConfig) :
    step v = .next v.takeEvent.terminate ∧ v.takeEvent.terminate.wire = s.wire ++ s.frame := by
  have hE : transferEvents s.cfg.toConfig = 2 * (s.cfg.pixelCount / 2) + 2 := rfl
  constructor
  · rw [h.step_event, halfOfPixel_of_odd (by omega)]
    exact exec_evFull_of_done h.inTransfer (h.done (by omega))
  · rw [← s.flatMap_frameUnit, ← last]
    exact h.wire_of_raised

end Course

/-! ### The length of a transfer -/

section Runs

variable {s t v : State} {e n : Nat}

theorem exists_step_of_run_succ (h : Host.Core.run Sys2Proof.core (n + 1) s = .next t) :
    ∃ u, step s = .next u ∧ Host.Core.run Sys2Proof.core n u = .next t := by
  simp only [Host.Core.run] at h
  split at h
  next u hu => exact ⟨u, hu, h⟩
  all_goals cases h

/-- A run goes on from where a shorter run has led. -/
theorem run_add {m : Nat} (h : Host.Core.run Sys2Proof.core m s = .next t) (n : Nat) :
    Host.Core.run Sys2Proof.core (m + n) s = Host.Core.run Sys2Proof.core n t := by
  induction m generalizing s with
  | zero =>
    cases h
    rw [Nat.zero_add]
  | succ m ih =>
    obtain ⟨u, hstep, h⟩ := exists_step_of_run_succ h
    rw [Nat.succ_add, run_of_next hstep, ih h]

theorem run_succ_of_run {u : State} (h : Host.Core.run Sys2Proof.core n s = .next t) (hstep : step t = .next u) :
    Host.Core.run Sys2Proof.core (n + 1) s = .next u := by
  rw [run_add h, run_of_next hstep]
  rfl

/-- With no operation of the caller, `q` steps emit the first `q` codes of a unit. -/
theorem State.Streams.run_codes (h : s.Streams e 0 v) (hi : v.inputs = []) {q : Nat} (hq : q ≤ s.cfg.half) :
    ∃ w, Host.Core.run Sys2Proof.core q v = .next w ∧ s.Streams e q w ∧ w.inputs = [] := by
  induction q with
  | zero => exact ⟨v, rfl, h, hi⟩
  | succ q ih =>
    obtain ⟨w, hrun, hw, hwi⟩ := ih (by omega)
    obtain ⟨u, hstep, hu, hui⟩ := hw.step_code hq (by simp [hwi])
    exact ⟨u, run_succ_of_run hrun hstep, hu, by rw [hui, hwi]; rfl⟩

/-- With no operation of the caller, each unit takes `HALF` emissions and one event. -/
theorem State.Streams.run_units (h : s.Streams 0 0 v) (hi : v.inputs = []) (he : e < transferEvents s.cfg.toConfig) :
    ∃ w, Host.Core.run Sys2Proof.core ((s.cfg.half + 1) * e) v = .next w ∧ s.Streams e 0 w ∧ w.inputs = [] := by
  induction e with
  | zero => exact ⟨v, rfl, h, hi⟩
  | succ e ih =>
    obtain ⟨w, hrun, hw, hwi⟩ := ih (by omega)
    obtain ⟨u, hcodes, hu, hui⟩ := hw.run_codes hwi le_rfl
    obtain ⟨x, hstep, hx, hxi⟩ := hu.step_unit he
    refine ⟨x, ?_, hx, hxi.trans hui⟩
    rw [Nat.mul_succ, run_add hrun]
    exact run_succ_of_run hcodes hstep

/-- With no operation of the caller, where a transfer is after `n` steps. -/
theorem State.Streams.run (h : s.Streams 0 0 v) (hi : v.inputs = []) {q : Nat}
    (he : e < transferEvents s.cfg.toConfig) (hq : q ≤ s.cfg.half) :
    ∃ w, Host.Core.run Sys2Proof.core ((s.cfg.half + 1) * e + q) v = .next w ∧ s.Streams e q w := by
  obtain ⟨u, hunits, hu, hui⟩ := h.run_units hi he
  obtain ⟨w, hcodes, hw, -⟩ := hu.run_codes hui hq
  exact ⟨w, by rw [run_add hunits, hcodes], hw⟩

end Runs

/-- Settles O56: step `n` finds unit `n / (HALF + 1)` on its way, until the event of the last unit. -/
theorem transferTakesItsNumberOfEvents : Obligations.TransferTakesItsNumberOfEvents := by
  intro s answers ready stopped hevent hanswers hinputs
  have hstart := State.Streams.start hevent (State.seed_startAnswer hanswers)
  refine ⟨s.startTransfer, exec_trigger_of_ready ready ((State.teIdle_iff s).mpr stopped), fun n hn => ?_, ?_⟩
  · obtain ⟨v, hrun, hv⟩ := hstart.run hinputs (Nat.div_lt_of_lt_mul hn)
      (Nat.le_of_lt_succ (Nat.mod_lt n (Nat.succ_pos s.cfg.half)))
    rw [Nat.div_add_mod] at hrun
    exact ⟨v, hrun, hv.busy⟩
  · obtain ⟨e, he⟩ : ∃ e, transferEvents s.cfg.toConfig = e + 1 := ⟨_, rfl⟩
    obtain ⟨v, hrun, hv⟩ := hstart.run hinputs (e := e) (by omega) le_rfl
    obtain ⟨hlast, hwire⟩ := hv.step_last he.symm
    rw [he, Nat.mul_succ]
    exact ⟨_, run_succ_of_run hrun hlast, rfl, hwire⟩

end Sys2Proof.Machine
end

section
/-! PROOF. The Transfer Engine on the wire (43_serializer.md): what one emission does, and that a transfer during which
the caller keeps the contract puts exactly the frame on the wire. -/

namespace Sys2Proof.Machine

/-! ### One emission -/

/-- With nothing to run, a step is one pulse period (43_serializer.md R185). -/
theorem step_of_fetched_none {s : State} (hf : s.fetched = none) : step s = s.pulseStep := by
  simp only [step, hf]

/-- Settles O8, by the three ways the Transfer Engine moves on. -/
theorem emissionAppendsOneCodeAndRaisesEvents : Obligations.EmissionAppendsOneCodeAndRaisesEvents := by
  rintro s ⟨hlength, -⟩ hpos running hevent hi
  obtain ⟨code, hread⟩ : ∃ code, s.tb[s.tePos]? = some code :=
    ⟨_, List.getElem?_eq_getElem (hpos.trans_eq hlength.symm)⟩
  have hemit : s.pulseStep = .next ({ s with inputs := s.inputs.tail, wire := s.wire ++ [code] } : State).advance :=
    emit_of_code running hread
  have hstep := (step_of_fetched_none (State.fetched_eq_none.mpr ⟨hevent, hi⟩)).trans hemit
  have hhalf := s.cfg.half_pos
  have hbuffer := s.cfg.bufferLength_eq
  rcases State.advance_cases { s with inputs := s.inputs.tail, wire := s.wire ++ [code] } with
    ⟨hfirst, hmove⟩ | ⟨hfirst, hsecond, hmove⟩ | ⟨hfirst, hsecond, hmove⟩
  all_goals
    rw [hmove] at hstep
    simp only at hfirst
    refine ⟨_, code, hstep, hread, rfl, ?_⟩
  · exact ⟨fun _ => ⟨rfl, rfl⟩, fun hsecond => by omega, fun hne => absurd hfirst hne, rfl⟩
  · exact ⟨fun h => absurd h hfirst, fun _ => ⟨rfl, rfl⟩, fun _ hne => absurd hsecond hne, rfl⟩
  · exact ⟨fun h => absurd h hfirst, fun h => absurd h hsecond, fun _ _ => ⟨rfl, hevent⟩, rfl⟩

/-! ### Where a run leads -/

/-- Some number of steps leads from `s` to a state with `P`. -/
def Leads (s : State) (P : State → Prop) : Prop := ∃ n t, Host.Core.run Sys2Proof.core n s = .next t ∧ P t

section Leads

variable {s t : State} {P Q : State → Prop}

theorem Leads.here (h : P s) : Leads s P := ⟨0, s, rfl, h⟩

theorem Leads.of_step (hstep : step s = .next t) : Leads t P → Leads s P
  | ⟨n, u, hrun, hu⟩ => ⟨n + 1, u, (run_of_next hstep n).trans hrun, hu⟩

theorem Leads.trans (h : Leads s P) (hPQ : ∀ t, P t → Leads t Q) : Leads s Q := by
  obtain ⟨m, t, hm, ht⟩ := h
  obtain ⟨n, u, hn, hu⟩ := hPQ t ht
  exact ⟨m + n, u, (run_add hm n).trans hn, hu⟩

end Leads

/-! ### A transfer under the caller contract -/

/-- The three operations that the contract leaves the caller during a transfer. -/
theorem decodeCommand_of_keepsContract {w : CommandWord} (h : (Input.command w).keepsContract = true) :
    ∃ i, decodeCommand w = .ok i ∧ (i = .isReady ∨ i = .trigger ∨ ∃ b, i = .setBrightness b) := by
  simp only [Input.keepsContract] at h
  split at h
  next hd => exact ⟨_, hd, .inl rfl⟩
  next hd => exact ⟨_, hd, .inr (.inl rfl)⟩
  next b hd => exact ⟨_, hd, .inr (.inr ⟨b, rfl⟩)⟩
  next => cases h

/-- A transfer at code `q` of unit `e`, with a caller whose coming operations keep the contract (20_memory.md R62,
60_exceptions.md R207). -/
structure State.StreamsUndisturbed (s : State) (e q : Nat) (v : State) : Prop where
  streams : s.Streams e q v
  contract : ∀ x ∈ v.inputs, x.keepsContract = true

section Contract

variable {s v : State} {e q : Nat}

/-- An operation that keeps the contract leaves the transfer where it is. -/
theorem State.Streams.step_command (h : s.Streams e q v) (hq : q < s.cfg.half) {w : CommandWord} {rest : List Input}
    (hi : v.inputs = .command w :: rest) (hw : (Input.command w).keepsContract = true) :
    ∃ u, step v = .next u ∧ s.Streams e q u ∧ u.inputs = rest := by
  obtain ⟨i, hd, hinstr⟩ := decodeCommand_of_keepsContract hw
  rw [step_of_command (h.event.trans (if_neg hq.ne)) hi hd]
  rcases hinstr with rfl | rfl | ⟨b, rfl⟩
  · exact ⟨_, exec_isReady _, { h with }, rfl⟩
  · exact ⟨_, exec_trigger_of_busy (.inl h.busy), { h with }, rfl⟩
  · exact ⟨_, exec_setBrightness _ b, { h with }, rfl⟩

/-- With no command next, one step emits code `q`. -/
theorem State.StreamsUndisturbed.leads_emission (h : s.StreamsUndisturbed e q v) (hq : q < s.cfg.half)
    (hi : ∀ w rest, v.inputs ≠ .command w :: rest) : Leads v (s.StreamsUndisturbed e (q + 1)) := by
  obtain ⟨w, hstep, hw, hwi⟩ := h.streams.step_code hq hi
  exact .of_step hstep (.here ⟨hw, fun x hx => h.contract x (List.mem_of_mem_tail (hwi ▸ hx))⟩)

/-- The caller's operations come to an end or to a pulse, and then code `q` goes out. -/
theorem State.StreamsUndisturbed.leads_code (h : s.StreamsUndisturbed e q v) (hq : q < s.cfg.half) :
    Leads v (s.StreamsUndisturbed e (q + 1)) := by
  induction hinputs : v.inputs generalizing v with
  | nil => exact h.leads_emission hq (by simp [hinputs])
  | cons x rest ih =>
    cases x with
    | pulse => exact h.leads_emission hq (by simp [hinputs])
    | command w =>
      obtain ⟨hw, hrest⟩ := List.forall_mem_cons.mp (hinputs ▸ h.contract)
      obtain ⟨u, hstep, hu, hui⟩ := h.streams.step_command hq hinputs hw
      exact .of_step hstep (ih ⟨hu, hui ▸ hrest⟩ hui)

/-- The first `q` codes of a unit go out. -/
theorem State.StreamsUndisturbed.leads_codes (h : s.StreamsUndisturbed e 0 v) (hq : q ≤ s.cfg.half) :
    Leads v (s.StreamsUndisturbed e q) := by
  induction q with
  | zero => exact .here h
  | succ q ih => exact (ih (by omega)).trans fun _ hw => hw.leads_code hq

/-- A unit that is not the last one goes out, and its event is answered. -/
theorem State.StreamsUndisturbed.leads_unit (h : s.StreamsUndisturbed e 0 v)
    (more : e + 1 < transferEvents s.cfg.toConfig) : Leads v (s.StreamsUndisturbed (e + 1) 0) := by
  refine (h.leads_codes le_rfl).trans fun w hw => ?_
  obtain ⟨u, hstep, hu, hui⟩ := hw.streams.step_unit more
  exact .of_step hstep (.here ⟨hu, hui ▸ hw.contract⟩)

/-- The first `e` units go out. -/
theorem State.StreamsUndisturbed.leads_units (h : s.StreamsUndisturbed 0 0 v)
    (he : e < transferEvents s.cfg.toConfig) : Leads v (s.StreamsUndisturbed e 0) := by
  induction e with
  | zero => exact .here h
  | succ e ih => exact (ih (by omega)).trans fun _ hw => hw.leads_unit he

/-- The last unit goes out, and its event ends the transfer (43_serializer.md R190). -/
theorem State.StreamsUndisturbed.leads_end (h : s.StreamsUndisturbed e 0 v)
    (last : e + 1 = transferEvents s.cfg.toConfig) : Leads v fun u =>
      u.es = .ready ∧ u.pc = 0 ∧ u.teRunning = false ∧ u.event = none ∧ u.cb = s.cb ∧ u.wire = s.wire ++ s.frame := by
  refine (h.leads_codes le_rfl).trans fun w hw => ?_
  obtain ⟨hstep, hwire⟩ := hw.streams.step_last last
  exact .of_step hstep (.here ⟨rfl, rfl, rfl, rfl, hw.streams.cb, hwire⟩)

end Contract

/-- Settles O55: the caller's operations only stretch the transfer, whose units are the frame. -/
theorem frameAppearsOnTheWire : Obligations.FrameAppearsOnTheWire := by
  intro s answers ready stopped hevent hanswers hcontract
  have hanswer := State.seed_startAnswer hanswers
  have hstart : s.StreamsUndisturbed 0 0 s.startTransfer := ⟨.start hevent hanswer, hcontract⟩
  obtain ⟨e, he⟩ : ∃ e, transferEvents s.cfg.toConfig = e + 1 := ⟨_, rfl⟩
  have hunits : Leads s.startTransfer (s.StreamsUndisturbed e 0) := hstart.leads_units (by omega)
  obtain ⟨n, u, hrun, hu⟩ := hunits.trans fun _ hw => hw.leads_end he.symm
  exact ⟨_, n, u, exec_trigger_of_ready ready ((State.teIdle_iff s).mpr stopped), by simp [hanswer], hrun, hu⟩

end Sys2Proof.Machine
end

section
/-! PROOF. Statuses and refusals (60_exceptions.md): an event outside a transfer is refused, and every answer is one
the table of R203 allows. -/

namespace Sys2Proof.Machine

/-! ### Events outside a transfer -/

section Refusals

variable {s : State}

theorem State.inTransfer_eq_false_iff : s.inTransfer = false ↔ s.es = .ready ∨ s.teRunning = false := by
  rw [← Bool.not_eq_true, State.inTransfer_iff, not_and_or, Bool.not_eq_true]
  exact or_congr_left ⟨EngineState.ready_of_ne_busy, fun ready => ready ▸ nofun⟩

theorem exec_callback_of_noTransfer (h : Half) (noTransfer : s.inTransfer = false) :
    exec h.callback s = .refused .eventOutsideTransfer := by
  cases h
  · exact if_neg (ne_true_of_eq_false noTransfer)
  · exact if_neg (ne_true_of_eq_false noTransfer)

end Refusals

/-- Settles O34: either cause says that no transfer is in flight. -/
theorem eventOutsideTransferIsRefused : Obligations.EventOutsideTransferIsRefused := fun _ h =>
  have noTransfer := State.inTransfer_eq_false_iff.mpr h
  ⟨exec_callback_of_noTransfer .first noTransfer, exec_callback_of_noTransfer .second noTransfer⟩

/-! ### What an instruction answers -/

section Replies

variable {s t : State}

theorem reply_of_exec_eq_answer {i : Instr} {u : State} {r : Reply} (hi : exec i s = .next (u.answer r))
    (h : exec i s = .next t) : t.reply = some r := by
  cases hi.symm.trans h
  rfl

theorem ExecNext.init_reply (h : ExecNext s .init t) : t.reply = some (.status .ok) := by
  cases h with
  | init ready => rfl
  | colour writes => cases writes

/-- An event is no command: nothing is answered (10_state.md R35, log entry 23). -/
theorem ExecNext.callback_reply {half : Half} (h : ExecNext s half.callback t) : t.reply = s.reply := by
  cases half
  · cases h with
    | colour writes => cases writes
    | halfRefill => exact State.refill_reply ..
    | halfNothing => rfl
  · cases h with
    | colour writes => cases writes
    | fullRefill => exact State.refill_reply ..
    | fullTerminate => rfl

/-- The answers of `show`: the busy path (42_streaming_engine.md R153), or by the answer of `te_start` (R151, R159). -/
theorem ExecNext.trigger_reply (h : ExecNext s .trigger t) : t.reply = some (.status .ok) ∨
    t.reply = some (.status .busy) ∨ t.reply = some (.status .transferStartError) := by
  cases h with
  | colour writes => cases writes
  | showBusy busy => exact .inr (.inl rfl)
  | showAccepted ready idle =>
    rw [State.startTransfer_reply]
    split_ifs
    · exact .inl rfl
    · exact .inr (.inr rfl)

/-- `show` on a machine after reset, idle or busy, can answer each of its three statuses. -/
theorem exists_exec_trigger_reply {r : Status} (hr : r ≠ .paramError) :
    ∃ s t, exec .trigger s = .next t ∧ t.reply = some (.status r) := by
  cases r with
  | ok => exact ⟨{ State.reset with startAnswers := [true] }, _, exec_trigger_of_ready rfl rfl, rfl⟩
  | busy => exact ⟨{ State.reset with es := .busy }, _, exec_trigger_of_busy (.inl rfl), rfl⟩
  | paramError => exact absurd rfl hr
  | transferStartError =>
    exact ⟨{ State.reset with startAnswers := [false] }, _, exec_trigger_of_ready rfl rfl, rfl⟩

/-- SET_PIXEL_WHITE has an answer on 3 and on 4 channels (40_color_pipeline.md R119). -/
theorem exec_setPixelWhite_total (s : State) (index : Index) (w : Byte) :
    ∃ t, exec (.setPixelWhite index w) s = .next t := by
  rcases s.cfg.channels_eq with h3 | h4
  · exact ⟨_, exec_setPixelWhite_of_three h3 index w⟩
  · exact ⟨_, exec_setPixelWhite_of_four h4 index w⟩

/-- FILL_WHITE has an answer on 3 and on 4 channels (40_color_pipeline.md R123). -/
theorem exec_fillWhite_total (s : State) (w : Byte) : ∃ t, exec (.fillWhite w) s = .next t := by
  rcases s.cfg.channels_eq with h3 | h4
  · exact ⟨_, exec_fillWhite_of_three h3 w⟩
  · exact ⟨_, exec_fillWhite_of_four h4 w⟩

end Replies

/-- Settles O41, row by row of the table: the operations that always answer alike by what `exec` is on them, the
others by the cases of `exec`. -/
theorem statusTableHolds : Obligations.StatusTableHolds := by
  refine ⟨fun i s t h => ?_, fun r hr => exists_exec_trigger_reply hr, fun s =>
    ⟨⟨_, exec_clear s⟩, exec_setPixelWhite_total s, exec_fillWhite_total s⟩⟩
  cases i with
  | init => exact (exec_next h).init_reply
  | clear => exact reply_of_exec_eq_answer (exec_clear s) h
  | setBrightness b => exact reply_of_exec_eq_answer (exec_setBrightness s b) h
  | setPixelRgb index r g b => exact reply_of_exec_eq_answer (exec_setPixelRgb s index r g b) h
  | setPixelHsv index hue sat val =>
    exact reply_of_exec_eq_answer ((exec_setPixelHsv ..).trans (exec_setPixelRgb ..)) h
  | fillRgb r g b => exact reply_of_exec_eq_answer (exec_fillRgb s r g b) h
  | fillHsv hue sat val => exact reply_of_exec_eq_answer ((exec_fillHsv ..).trans (exec_fillRgb ..)) h
  | setPixelWhite index w =>
    exact ⟨fun h4 => reply_of_exec_eq_answer (exec_setPixelWhite_of_four h4 index w) h,
      fun h3 => reply_of_exec_eq_answer (exec_setPixelWhite_of_three h3 index w) h⟩
  | fillWhite w =>
    exact ⟨fun h4 => reply_of_exec_eq_answer (exec_fillWhite_of_four h4 w) h,
      fun h3 => reply_of_exec_eq_answer (exec_fillWhite_of_three h3 w) h⟩
  | trigger => exact (exec_next h).trigger_reply
  | isReady => exact reply_of_exec_eq_answer (u := s) (exec_isReady s) h
  | evHalf => exact (exec_next h).callback_reply (half := .first)
  | evFull => exact (exec_next h).callback_reply (half := .second)

end Sys2Proof.Machine
end

section
/-! PROOF. Reset and hazards (70_reset_and_hazards.md): the configuration lasts as long as the instance, an idle block
does nothing, and `init` leaves the reset state. -/

namespace Sys2Proof.Machine

/-- Settles O40: the configuration is one of the things `step_control` follows through a step. -/
theorem configurationNeverChanges : Obligations.ConfigurationNeverChanges :=
  ⟨fun _ => rfl, fun _ _ h => (step_control h).1⟩

/-! ### The block at rest -/

section Rest

variable {s : State}

/-- A stopped Transfer Engine emits nothing (43_serializer.md R191). -/
theorem emit_of_stopped (stopped : s.teRunning = false) : s.emit = .next s :=
  if_neg (ne_true_of_eq_false stopped)

/-- The Transfer Engine runs only during a transfer (43_serializer.md R183). -/
theorem State.SerializerOk.stopped_of_ready (hs : s.SerializerOk) (ready : s.es = .ready) : s.teRunning = false := by
  obtain ⟨hrun, -⟩ := hs
  exact Bool.eq_false_iff.mpr fun running => absurd (ready.symm.trans (hrun running)) nofun

/-- Either event is raised only while the Transfer Engine runs (43_serializer.md R185). -/
theorem State.SerializerOk.event_of_stopped (hs : s.SerializerOk) (stopped : s.teRunning = false) :
    s.event = none := by
  obtain ⟨-, -, hhalf, hfull⟩ := hs
  have notRunning := ne_true_of_eq_false stopped
  cases he : s.event with
  | none => rfl
  | some e =>
    rcases EventWord.cases e with rfl | rfl
    · exact absurd (hhalf he).1 notRunning
    · exact absurd (hfull he).1 notRunning

end Rest

/-- Settles O7: nothing is fetched, so the step is a pulse period in which nothing is emitted. -/
theorem idleMachineDoesNothing : Obligations.IdleMachineDoesNothing := fun s hevent stopped hinputs =>
  calc step s
    _ = s.pulseStep := step_of_fetched_none (State.fetched_eq_none.mpr ⟨hevent, hinputs⟩)
    _ = .next { s with inputs := s.inputs.tail } := emit_of_stopped (s := { s with inputs := s.inputs.tail }) stopped

/-- Settles O57: `init` writes `ES`, `PC` and `WIRE`; the invariants have the Transfer Engine at rest already. -/
theorem initLeavesTheResetState : Obligations.InitLeavesTheResetState := by
  intro s hserializer hidle ready
  have stopped := hserializer.stopped_of_ready ready
  exact ⟨_, exec_init_of_ready ready, rfl, rfl, stopped, hidle ready, rfl, hserializer.event_of_stopped stopped,
    (State.teIdle_iff _).mpr stopped, rfl, rfl, rfl, rfl⟩

end Sys2Proof.Machine
end
